-- ==== Sys2Proof/Word.lean ====
section
/-! DEFINITION. The word types of HUFFCORE: bytes, Symbols, 16-bit command words and bit-strings (spec/00_scope.md
R9, R13, R14; spec/30_encoding.md R80). -/

namespace Sys2Proof

/-- One byte of a byte memory (R9). -/
abbrev Byte := BitVec 8

/-- A Symbol is "a byte value in [0,255]" (R9). -/
abbrev Symbol := BitVec 8

/-- One command word, format C (R80). -/
abbrev CmdWord := BitVec 16

/-- A bit-string, first bit first; `true` is the digit 1 (R14). It is not a number: `[false]` and `[false, false]` differ. -/
abbrev BitString := List Bool

end Sys2Proof
end

