-- ==== Sys2Proof/Config.lean ====
section
/-! DEFINITION. The implementation parameters of spec/00_scope.md R10 and the values the spec leaves open
(R10 ADD_K; spec/10_state.md R49 and spec/60_exceptions.md R197, the unspecified bytes). -/

namespace Sys2Proof

/-- The parameters of R10, fixed for the life of a block (spec/10_state.md R46). Their constraints are
`Config.wellFormed` in WellFormed.lean. -/
structure Config where
  /-- LEN_W: width in bits of every length, count and frequency register. -/
  lenW : Nat
  /-- BUF_BYTES: capacity in bytes of IBUF and of OBUF. -/
  bufBytes : Nat
  /-- KEY_BYTES: capacity in bytes of KEY. -/
  keyBytes : Nat
  /-- TRIE_NODES: number of entries of the trie arena. -/
  trieNodes : Nat
  /-- ADD_K: the keyless cipher's additive constant, hardwired in CADD (R29). -/
  addK : Byte
  /-- HASH_INIT: initial value of the hash accumulator. -/
  hashInit : BitVec 64
  /-- HASH_MULT: the hash multiplier, odd. -/
  hashMult : BitVec 64
  deriving DecidableEq, Repr

/-- The value of ADD_K, which R10 leaves OPEN with no default: a free value (U12, log entry 3). -/
opaque Config.openAddK : Byte

/-- The value of byte `i` of a byte memory under draw number `d`, where nothing has written that byte since the draw
(R49, R197, U1, U2): a free value (log entry 1). -/
opaque Config.freeByte : Nat → Nat → Byte

/-- The defaults of R10's last column, with ADD_K left open. HASH_INIT and HASH_MULT are the defaults the spec marks
[from general knowledge, not in source] (log entry 4). -/
def Config.default : Config where
  lenW := 32
  bufBytes := 65536
  keyBytes := 256
  trieNodes := 65535
  addK := Config.openAddK
  hashInit := 0xCBF29CE484222325#64
  hashMult := 0x00000100000001B3#64

end Sys2Proof
end

