-- ==== Sys2Proof/Syntax.lean ====
section
/-! DEFINITION. The fourteen commands of spec/30_encoding.md R82, one constructor per row of spec/opcode_table.json. -/

namespace Sys2Proof

/-- The operand b, the only operand any command has (R83): `input` is b = 0 (IBUF, ILEN, HASH0), `output` is b = 1
(OBUF, OLEN, HASH1). -/
inductive BufSel where
  | input
  | output
  deriving DecidableEq, Repr

/-- A command of the block (R82). -/
inductive Instr where
  /-- NOP, R155. -/
  | nop
  /-- RST, R156. -/
  | rst
  /-- SWAP, R158. -/
  | swap
  /-- CIPHF b, R144. -/
  | ciphf (b : BufSel)
  /-- CIPHI b, R145. -/
  | ciphi (b : BufSel)
  /-- HASH b, R140. -/
  | hash (b : BufSel)
  /-- FCNT, R100. -/
  | fcnt
  /-- TBLD, R104. -/
  | tbld
  /-- CGEN, R106. -/
  | cgen
  /-- PACK, R110. -/
  | pack
  /-- TRIE, R121. -/
  | trie
  /-- DECT, R124. -/
  | dect
  /-- MAPB, R126. -/
  | mapb
  /-- DECM, R129. -/
  | decm
  deriving DecidableEq, Repr

end Sys2Proof
end

