-- ==== Sys2Proof/WellFormed.lean ====
section
/-! DEFINITION. What is well formed: the parameters (spec/00_scope.md R10), a Code (spec/10_state.md R40), a command. -/

namespace Sys2Proof

/-- The constraint column of R10, one conjunct a row. ADD_K and HASH_INIT take every value of their width. -/
def Config.wellFormed (c : Config) : Bool :=
  (8 ≤ c.lenW && c.lenW ≤ 64) &&
  (1 ≤ c.bufBytes && c.bufBytes ≤ 2 ^ c.lenW - 1) &&
  (1 ≤ c.keyBytes && c.keyBytes ≤ 2 ^ 16 - 1) &&
  (65281 ≤ c.trieNodes && c.trieNodes ≤ 65535) &&
  c.hashMult.getLsbD 0

/-- A Code that `SetCode` takes has 1 to 255 bits (R40). -/
def codeWellFormed (c : BitString) : Bool :=
  1 ≤ c.length && c.length ≤ 255

/-- Every term of `Instr` is a legal command: the operand type has exactly the two values of R83 and no command has
another operand, so nothing is left to check. -/
def Instr.wellFormed (_ : Instr) : Bool := true

end Sys2Proof
end

