-- ==== Sys2Proof/Decode.lean ====
section
/-! DEFINITION. Decoding and encoding of command words (spec/30_encoding.md R80 to R85). -/

namespace Sys2Proof

/-- Why a word is illegal (R84): three disjoint kinds. The block reports all three as ERR_ILLEGAL with the word. -/
inductive Reject where
  /-- The opc field is not one of the fourteen of R82. -/
  | unlistedOpcode
  /-- A listed opc with one of bits 7:1 set. -/
  | zeroField
  /-- Bits 7:1 clear, bit 0 set, and an opc that takes no operand. -/
  | strayOperand
  deriving DecidableEq, Repr

/-- The opc field, bits 15:8 (R80). -/
def opcField (w : CmdWord) : BitVec 8 := w.extractLsb' 8 8

/-- The zero field, bits 7:1 (R80). -/
def zeroField (w : CmdWord) : BitVec 7 := w.extractLsb' 1 7

/-- The operand b, bit 0 "taken as it stands" (R83). -/
def operandB (w : CmdWord) : BufSel := if w.getLsbD 0 then .output else .input

/-- One row of the opcode map: a word selects it when `(w and mask) = pattern` (R82). -/
structure OpcodeRow where
  pattern : CmdWord
  mask : CmdWord
  command : BufSel → Instr

/-- The opcode map of R82, in the table's order. -/
def opcodeMap : List OpcodeRow :=
  [ ⟨0x0000#16, 0xFFFF#16, fun _ => .nop⟩,
    ⟨0x0100#16, 0xFFFF#16, fun _ => .rst⟩,
    ⟨0x0200#16, 0xFFFF#16, fun _ => .swap⟩,
    ⟨0x1000#16, 0xFFFE#16, .ciphf⟩,
    ⟨0x1100#16, 0xFFFE#16, .ciphi⟩,
    ⟨0x1800#16, 0xFFFE#16, .hash⟩,
    ⟨0x2000#16, 0xFFFF#16, fun _ => .fcnt⟩,
    ⟨0x2100#16, 0xFFFF#16, fun _ => .tbld⟩,
    ⟨0x2200#16, 0xFFFF#16, fun _ => .cgen⟩,
    ⟨0x2300#16, 0xFFFF#16, fun _ => .pack⟩,
    ⟨0x3000#16, 0xFFFF#16, fun _ => .trie⟩,
    ⟨0x3100#16, 0xFFFF#16, fun _ => .dect⟩,
    ⟨0x3200#16, 0xFFFF#16, fun _ => .mapb⟩,
    ⟨0x3300#16, 0xFFFF#16, fun _ => .decm⟩ ]

/-- A word selects a row (R82). -/
def OpcodeRow.selects (r : OpcodeRow) (w : CmdWord) : Bool := (w &&& r.mask) == r.pattern

/-- The kind of an illegal word (R84). -/
def rejectReason (w : CmdWord) : Reject :=
  if opcodeMap.all (fun r => opcField r.pattern != opcField w) then .unlistedOpcode
  else if zeroField w != 0#7 then .zeroField
  else .strayOperand

/-- Decoding, total on all 65536 words (R81 cases 2 and 3). Case 1, the drop in error-stop, is
`Machine.unlessStopped`. -/
def decode (w : CmdWord) : Except Reject Instr :=
  match opcodeMap.find? (fun r => r.selects w) with
  | some r => .ok (r.command (operandB w))
  | none => .error (rejectReason w)

/-- The bit of the operand (R83). -/
def BufSel.bit : BufSel → BitVec 1
  | .input => 0#1
  | .output => 1#1

/-- A word of format C from its three fields (R80): opc in bits 15:8, zeros in 7:1, b in bit 0. -/
def formatC (opc : BitVec 8) (b : BufSel) : CmdWord := opc ++ (0#7 ++ b.bit)

/-- The word of a command, from the opc column of R82. -/
def encode : Instr → CmdWord
  | .nop => formatC 0x00#8 .input
  | .rst => formatC 0x01#8 .input
  | .swap => formatC 0x02#8 .input
  | .ciphf b => formatC 0x10#8 b
  | .ciphi b => formatC 0x11#8 b
  | .hash b => formatC 0x18#8 b
  | .fcnt => formatC 0x20#8 .input
  | .tbld => formatC 0x21#8 .input
  | .cgen => formatC 0x22#8 .input
  | .pack => formatC 0x23#8 .input
  | .trie => formatC 0x30#8 .input
  | .dect => formatC 0x31#8 .input
  | .mapb => formatC 0x32#8 .input
  | .decm => formatC 0x33#8 .input

/-- The decoder on a word numbered as spec/opcode_table.json numbers it: every command is one 16-bit word (R80), so the
bits above `nbits` are zero and no word is longer than 16 bits. -/
def decodeTableWord (nbits w : Nat) : Option Instr :=
  if nbits ≤ 16 then
    match decode (BitVec.ofNat 16 (w % 2 ^ nbits)) with
    | .ok i => some i
    | .error _ => none
  else none

end Sys2Proof
end

