-- ==== Sys2Proof/Machine/State.lean ====
section
/-! DEFINITION. The state of HUFFCORE as plain data (spec/10_state.md), the host steps that drive it (spec/20_memory.md
R62 to R64), and its value after reset (R49). -/

namespace Sys2Proof.Machine

/-- A sparse array: (index, element) pairs, indices strictly rising. An index that is not listed holds the array's
cleared value, so an array that is cleared throughout is `[]`. -/
abbrev Sparse (α : Type) := List (Nat × α)

/-- A byte memory (IBUF, OBUF, KEY: R35 to R37). `cells` lists the bytes something has written, `draw` numbers the
draw that gives every other byte its unspecified value (R49, R197; log entry 1). -/
structure Memory where
  draw : Nat
  cells : List Host.Cell
  deriving DecidableEq, Repr

/-- One entry of the tree arena NODE (R41). `freq` has LEN_W + 8 bits. The default value is the cleared one. -/
structure TreeNode where
  /-- 1 when the entry is a node of the current tree. -/
  valid : Bool := false
  /-- 0 = Leaf, 1 = Internal. -/
  tag : Bool := false
  sym : Symbol := 0#8
  /-- The tie-break key (R103). -/
  key : Byte := 0#8
  freq : Nat := 0
  left : BitVec 9 := 0x1FF#9
  right : BitVec 9 := 0x1FF#9
  deriving DecidableEq, Repr

/-- The cleared value of a NODE entry (R41). -/
def TreeNode.cleared : TreeNode := {}

/-- One entry of the trie arena TRIE (R43). The default value is the cleared one. -/
structure TrieNode where
  /-- The child reached by bit 0, or NIL. -/
  ch0 : BitVec 16 := 0xFFFF#16
  /-- The child reached by bit 1, or NIL. -/
  ch1 : BitVec 16 := 0xFFFF#16
  leaf : Bool := false
  sym : Symbol := 0#8
  deriving DecidableEq, Repr

/-- The cleared value of a TRIE entry (R43). -/
def TrieNode.cleared : TrieNode := {}

/-- The CodeTable (R39): CLEN, indexed by Symbol, and CBITS, whose element `32 × s + j` is `CBITS[s][j]` (R60). -/
structure CodeTable where
  clen : Sparse Byte
  cbits : Sparse Byte
  deriving DecidableEq, Repr

/-- What the world outside the block does to it. The first three are the host steps of R19; space ids, indices and values
are plain numbers because R62 and R63 give every one of them a meaning. Hardware reset (R220) is no host step of a
program, but it is an input of the block (log entry 8). -/
inductive HostStep where
  | write (space index value : Nat)
  | read (space index : Nat)
  | cmd (w : CmdWord)
  | hardwareReset
  deriving DecidableEq, Repr

/-- Why the machine stops. The block's own six faults (R190) are no stops: they are next states with ERR set. -/
inductive Fault where
  /-- Raised by CGEN. The walk from ROOT reaches an entry that is no node of a tree, or a path of more than 255 bits: an
  arena that no TBLD and no reset leaves, for which R106 gives no effect ("the tree CGEN sees is always one TBLD built
  or the empty tree"). Safe: the machine stops where the spec says nothing (log entry 6). -/
  | notATree
  deriving DecidableEq, Repr

/-- Why an instruction has no meaning. -/
inductive Refusal where
  /-- Raised by exec for a command that the model does not give a meaning yet; no arm of exec does so. Safe. -/
  | notModelled (mnemonic : String)
  deriving DecidableEq, Repr

/-- The whole state (R20): the scalar registers of R21 (less STATUS, which is a function of ERR by R22, and CADD, which is
hardwired to `cfg.addK` by R29), the memories, and, below them, the model's own fields. LEN_W-bit registers are natural
numbers below `2 ^ cfg.lenW`, since LEN_W is a parameter (log entry 2). -/
structure State where
  /-- The block's parameters (R10). No step changes them. -/
  cfg : Config
  /-- ERR, R23. -/
  err : BitVec 8
  /-- EINFO, LEN_W bits, R24. -/
  einfo : Nat
  /-- CCNT, R30. -/
  ccnt : BitVec 32
  /-- ILEN, LEN_W bits, R25. -/
  ilen : Nat
  /-- OLEN, LEN_W bits, R26. -/
  olen : Nat
  /-- NSYM, LEN_W bits, R27. -/
  nsym : Nat
  /-- KLEN, R28. -/
  klen : BitVec 16
  /-- WPL, LEN_W + 16 bits, R31. -/
  wpl : Nat
  /-- ROOT, R32. -/
  root : BitVec 9
  /-- NLEAF, R32. -/
  nleaf : BitVec 9
  /-- TCNT, R33. -/
  tcnt : BitVec 16
  /-- MCNT, R33. -/
  mcnt : BitVec 9
  /-- HASH0, R34. -/
  hash0 : BitVec 64
  /-- HASH1, R34. -/
  hash1 : BitVec 64
  /-- IBUF, R35. -/
  ibuf : Memory
  /-- OBUF, R36. -/
  obuf : Memory
  /-- KEY, R37. -/
  key : Memory
  /-- FREQ, entries of LEN_W bits, R38. -/
  freq : Sparse Nat
  /-- CLEN and CBITS, R39. -/
  table : CodeTable
  /-- NODE, R41. -/
  node : Sparse TreeNode
  /-- TRIE, R43. -/
  trie : Sparse TrieNode
  /-- MAP, R44: the Symbol of the bit-string `c` is listed under `codeKey c`. -/
  map : Sparse Symbol
  /-- The model's own: the host steps not yet taken, the next one first (R19; log entry 7). -/
  pending : List HostStep
  /-- The model's own: the values `HostRead` has returned to the host, oldest first (R63; log entry 7). -/
  replies : List Nat
  /-- The model's own: the number of the next draw of unspecified bytes (log entry 1). -/
  draws : Nat
  deriving DecidableEq, Repr

/-- The state after hardware reset of a block with the parameters `c`, whose byte memories hold draws `d`, `d + 1` and
`d + 2` (R49, R220). -/
def State.afterReset (c : Config) (d : Nat) : State where
  cfg := c
  err := 0#8
  einfo := 0
  ccnt := 0#32
  ilen := 0
  olen := 0
  nsym := 0
  klen := 0#16
  wpl := 0
  root := 0x1FF#9
  nleaf := 0#9
  tcnt := 0#16
  mcnt := 0#9
  hash0 := 0#64
  hash1 := 0#64
  ibuf := ⟨d, []⟩
  obuf := ⟨d + 1, []⟩
  key := ⟨d + 2, []⟩
  freq := []
  table := ⟨[], []⟩
  node := []
  trie := []
  map := []
  pending := []
  replies := []
  draws := d + 3

/-- The machine right after reset (R49, R220), with the default parameters of R10 and no host step pending. -/
def State.reset : State := State.afterReset Config.default 0

end Sys2Proof.Machine
end

