-- ==== Sys2Proof/Machine/Ops.lean ====
section
/-! DEFINITION. The named operations over memories and registers (spec/10_state.md, spec/20_memory.md R61), and taking a
fault and leaving error-stop (spec/60_exceptions.md R196 to R200). -/

namespace Sys2Proof.Machine

/-- One outcome of the block. -/
abbrev Result := Host.Outcome State Fault Refusal

/-- `v` truncated to `w` bits: what a register of that width keeps (R21). -/
def trunc (w v : Nat) : Nat := v % 2 ^ w

/-- `ceil(a/n)` of R13. -/
def ceilDiv (a n : Nat) : Nat := (a + n - 1) / n

/-! ### Sparse arrays -/

/-- The listed element at index `i`. -/
def Sparse.find? {α : Type} : Sparse α → Nat → Option α
  | [], _ => none
  | (j, v) :: m, i => if i = j then some v else Sparse.find? m i

/-- The list with `v` at index `i`, in its place. -/
def Sparse.put {α : Type} : Sparse α → Nat → α → Sparse α
  | [], i, v => [(i, v)]
  | (j, u) :: m, i, v =>
    if i < j then (i, v) :: (j, u) :: m
    else if i = j then (i, v) :: m
    else (j, u) :: Sparse.put m i v

/-- The list without index `i`. -/
def Sparse.drop {α : Type} : Sparse α → Nat → Sparse α
  | [], _ => []
  | (j, u) :: m, i => if i = j then Sparse.drop m i else (j, u) :: Sparse.drop m i

/-- Element `i` of an array whose cleared value is `d`. -/
def Sparse.get {α : Type} (d : α) (m : Sparse α) (i : Nat) : α := (Sparse.find? m i).getD d

/-- `m[i] <- v` in an array whose cleared value is `d`. Writing the cleared value removes the entry. -/
def Sparse.set {α : Type} [DecidableEq α] (d : α) (m : Sparse α) (i : Nat) (v : α) : Sparse α :=
  if v = d then Sparse.drop m i else Sparse.put m i v

/-- Indices strictly rising. -/
def Sparse.rising {α : Type} : Sparse α → Bool
  | [] => true
  | [_] => true
  | (i, _) :: (j, v) :: m => decide (i < j) && Sparse.rising ((j, v) :: m)

/-- The canonical form of an array of `n` elements with the cleared value `d`: indices strictly rising and below `n`, no
entry equal to the cleared value. -/
def Sparse.wf {α : Type} [DecidableEq α] (d : α) (n : Nat) (m : Sparse α) : Bool :=
  Sparse.rising m && m.all (fun e => decide (e.1 < n) && decide (e.2 ≠ d))

/-! ### Byte memories -/

/-- Byte `i`. A byte nothing has written since the draw holds the draw's value: this is the ONE place that says what an
unlisted address reads as (R49, R63, R197). -/
def Memory.read (m : Memory) (i : Nat) : Byte :=
  (Sparse.find? m.cells i).getD (Config.freeByte m.draw i)

/-- `m[i] <- v`. -/
def Memory.write (m : Memory) (i : Nat) (v : Byte) : Memory :=
  { m with cells := Sparse.put m.cells i v }

/-- `MemRead(m, 0, n)`: bytes 0 to n - 1, lowest index first (R61). -/
def Memory.bytes (m : Memory) (n : Nat) : List Byte := (List.range n).map m.read

/-- `MemWrite(m, i, n, v)`: the sequence `v` from index `i` on (R61). -/
def Memory.writeBytes (m : Memory) (i : Nat) : List Byte → Memory
  | [] => m
  | v :: vs => Memory.writeBytes (m.write i v) (i + 1) vs

/-- The canonical form of a byte memory: indices strictly rising. No entry can equal what an unlisted index reads as,
since that is a free value the model does not know (log entry 1). -/
def Memory.wf (m : Memory) : Bool := Sparse.rising m.cells

/-- Every listed index is inside a memory of `n` bytes. -/
def Memory.within (n : Nat) (m : Memory) : Bool := m.cells.all (fun e => decide (e.1 < n))

/-! ### The command counter, faults and error-stop -/

/-- Retiring a command without a fault: `cp <- cp + 1`, modulo 2^32 (R30, R199). -/
def State.retire (s : State) : State := { s with ccnt := s.ccnt + 1#32 }

/-- The causes of R190. -/
inductive Cause where
  | illegal
  | len
  | format
  | ovf
  | noCode
  | walk
  deriving DecidableEq, Repr

/-- The code ERR receives (R190). -/
def Cause.code : Cause → BitVec 8
  | .illegal => 1#8
  | .len => 2#8
  | .format => 3#8
  | .ovf => 4#8
  | .noCode => 5#8
  | .walk => 6#8

/-- The causes in the order of their codes (R190). -/
def allCauses : List Cause := [.illegal, .len, .format, .ovf, .noCode, .walk]

/-- The cause a value of ERR names; 0 and codes 7 to 255 name none (R190). -/
def Cause.ofCode (v : BitVec 8) : Option Cause := allCauses.find? fun c => c.code == v

/-- `raise E(info)`: a fault not yet taken. -/
structure Raised where
  cause : Cause
  info : Nat
  deriving DecidableEq, Repr

/-- Fault entry (R196): ERR takes the code, EINFO the info truncated to LEN_W bits. CCNT stays, nothing is saved elsewhere
and control goes nowhere. -/
def State.raise (r : Raised) (s : State) : State :=
  { s with err := r.cause.code, einfo := trunc s.cfg.lenW r.info }

/-- What a fault of PACK, DECT or DECM does besides (R197): OLEN is 0 and every byte of OBUF takes an unspecified value,
a new draw. -/
def State.loseOutput (s : State) : State :=
  { s with olen := 0, obuf := ⟨s.draws, []⟩, draws := s.draws + 1 }

/-- Leaving error-stop by the RST command (R156, R200, R221): every register and memory takes its reset value, except that
IBUF, OBUF and KEY keep their bytes. There is no return from a fault that restores anything. -/
def State.clearAll (s : State) : State :=
  { State.afterReset s.cfg 0 with
    ibuf := s.ibuf, obuf := s.obuf, key := s.key,
    pending := s.pending, replies := s.replies, draws := s.draws }

/-- Hardware reset (R220): the reset state, its byte memories newly drawn. What the host holds stays. -/
def State.hardwareReset (s : State) : State :=
  { State.afterReset s.cfg s.draws with pending := s.pending, replies := s.replies }

/-- Error-stop (R81 case 1, R198): while ERR is not 0 the command is dropped and no state changes. -/
def unlessStopped (act : State → Result) (s : State) : Result :=
  if s.err = 0#8 then act s else .next s

/-- A command whose fault changes nothing but ERR and EINFO (R196, R199). -/
def command (body : State → Except Raised State) : State → Result :=
  unlessStopped fun s =>
    match body s with
    | .ok t => .next t.retire
    | .error r => .next (s.raise r)

/-- A command that streams its output into OBUF: PACK, DECT, DECM (R196, R197, R199). -/
def outputCommand (body : State → Except Raised State) : State → Result :=
  unlessStopped fun s =>
    match body s with
    | .ok t => .next t.retire
    | .error r => .next (s.loseOutput.raise r)

end Sys2Proof.Machine
end

