-- ==== Sys2Proof/Machine/Flags.lean ====
section
/-! DEFINITION. The one status the block computes: STATUS (spec/10_state.md R22). It has no condition codes. -/

namespace Sys2Proof.Machine

/-- ESTOP, bit 1 of STATUS: 1 exactly when ERR is not 0 (R22). -/
def State.estop (s : State) : Bool := s.err != 0#8

/-- STATUS (R22). BUSY, bit 0, is 0 whenever the host can look, since a command is one atomic step (R18); bits 7 to 2 read
as zero. -/
def State.status (s : State) : BitVec 8 := if s.estop then 0x02#8 else 0x00#8

end Sys2Proof.Machine
end

