-- ==== Sys2Proof/Machine/Operands.lean ====
section
/-! DEFINITION. Operand forms: the buffer select b (spec/30_encoding.md R83), bits taken from a buffer (spec/00_scope.md
R15) and Codes taken from the table (spec/10_state.md R40, R44). -/

namespace Sys2Proof.Machine

/-- `BUF(b)` (R83). -/
def State.buf (s : State) : BufSel → Memory
  | .input => s.ibuf
  | .output => s.obuf

/-- `LEN(b)` (R83). -/
def State.len (s : State) : BufSel → Nat
  | .input => s.ilen
  | .output => s.olen

/-- `BUF(b) <- m`. -/
def State.setBuf (s : State) (m : Memory) : BufSel → State
  | .input => { s with ibuf := m }
  | .output => { s with obuf := m }

/-- HASH0 for b = 0, HASH1 for b = 1 (R34, R83). -/
def State.setHash (s : State) (h : BitVec 64) : BufSel → State
  | .input => { s with hash0 := h }
  | .output => { s with hash1 := h }

/-- `StreamBit(B, p) = B[p div 8][7 - (p mod 8)]`, MSB first (R15, R67). -/
def streamBit (m : Memory) (p : Nat) : Bool := (m.read (p / 8)).getLsbD (7 - p % 8)

/-- The `8 × n` bits of the first `n` bytes, in stream order. -/
def streamBits (m : Memory) (n : Nat) : BitString := (List.range (8 * n)).map (streamBit m)

/-- `CLEN[s]` as a number of bits (R39). -/
def CodeTable.len (t : CodeTable) (s : Nat) : Nat := (Sparse.get 0#8 t.clen s).toNat

/-- Bit `k` of `CBITS[s]`: `CBITS[s][k div 8][7 - (k mod 8)]` (R40). -/
def CodeTable.bit (t : CodeTable) (s k : Nat) : Bool :=
  (Sparse.get 0#8 t.cbits (32 * s + k / 8)).getLsbD (7 - k % 8)

/-- `CodeOf(s)` (R40). It is `[]` where `CLEN[s] = 0`, where R40 defines no Code; every reader checks that first. -/
def CodeTable.codeOf (t : CodeTable) (s : Nat) : BitString := (List.range (t.len s)).map (t.bit s)

/-- Eight bits of a bit-string from position `8 × j` on, MSB first, zeros past its end (R39, R40). -/
def codeByte (c : BitString) (j : Nat) : Byte :=
  BitVec.ofNat 8 ((List.range 8).foldl (fun a k => 2 * a + (c.getD (8 * j + k) false).toNat) 0)

/-- `SetCode(s, c)`: CLEN and all 32 bytes of `CBITS[s]` (R40). -/
def CodeTable.setCode (t : CodeTable) (s : Nat) (c : BitString) : CodeTable where
  clen := Sparse.set 0#8 t.clen s (BitVec.ofNat 8 c.length)
  cbits := (List.range 32).foldl (fun m j => Sparse.set 0#8 m (32 * s + j) (codeByte c j)) t.cbits

/-- Every `ClearCode(s)`: a table with no Code and all CBITS bytes zero (R40). -/
def CodeTable.empty : CodeTable := ⟨[], []⟩

/-- The key a bit-string has in MAP: its digits after a leading 1, read as a number. Bit-strings that differ, in a digit or
in length, have different keys (R44, R126). -/
def codeKey (c : BitString) : Nat := c.foldl (fun k b => 2 * k + b.toNat) 1

/-- "Is c in the domain of MAP, and if so what is MAP[c]" (R44). -/
def mapFind (m : Sparse Symbol) (c : BitString) : Option Symbol := Sparse.find? m (codeKey c)

/-- `MAP[c] <- s` (R44). -/
def mapSet (m : Sparse Symbol) (c : BitString) (s : Symbol) : Sparse Symbol := Sparse.put m (codeKey c) s

/-- `TRIE[i].ch[b]` (R43). -/
def TrieNode.child (n : TrieNode) (b : Bool) : BitVec 16 := if b then n.ch1 else n.ch0

/-- `TRIE[i].ch[b] <- c`. -/
def TrieNode.setChild (n : TrieNode) (b : Bool) (c : BitVec 16) : TrieNode :=
  if b then { n with ch1 := c } else { n with ch0 := c }

/-- `TRIE[i]`. -/
def trieAt (t : Sparse TrieNode) (i : Nat) : TrieNode := Sparse.get TrieNode.cleared t i

/-- `NODE[i]`. -/
def nodeAt (t : Sparse TreeNode) (i : Nat) : TreeNode := Sparse.get TreeNode.cleared t i

end Sys2Proof.Machine
end

