-- ==== Sys2Proof/Machine/Control.lean ====
section
/-! DEFINITION. The control commands NOP, RST, SWAP (spec/43_control.md). -/

namespace Sys2Proof.Machine

/-- NOP (R155): no effect but `cp <- cp + 1`. -/
def execNop (s : State) : Result := command .ok s

/-- RST (R156): the one command that executes in error-stop. CCNT is 0 and is not then incremented. -/
def execRst (s : State) : Result := .next s.clearAll

/-- SWAP's effect (R158): both buffers whole, and their lengths. -/
def swapBuffers (s : State) : Except Raised State :=
  if s.cfg.bufBytes < s.ilen then .error ⟨.len, s.ilen⟩
  else .ok { s with ibuf := s.obuf, obuf := s.ibuf, ilen := s.olen, olen := s.ilen }

/-- SWAP (R158). -/
def execSwap (s : State) : Result := command swapBuffers s

end Sys2Proof.Machine
end

