-- ==== Sys2Proof/Machine/Decoder.lean ====
section
/-! DEFINITION. The decoder commands TRIE, DECT, MAPB, DECM (spec/41_decoder.md). -/

namespace Sys2Proof.Machine

/-! ### TRIE -/

/-- The arena under construction: its entries and `t`, the next free index (R121). -/
structure TrieBuild where
  nodes : Sparse TrieNode
  next : Nat
  deriving DecidableEq, Repr

/-- `if TRIE[cur].ch[b] = NIL then TRIE[cur].ch[b] <- t, t <- t + 1` (R121). -/
def trieGrow (cur : Nat) (b : Bool) (t : TrieBuild) : TrieBuild :=
  let nd := trieAt t.nodes cur
  if nd.child b = 0xFFFF#16 then
    { nodes := Sparse.set TrieNode.cleared t.nodes cur (nd.setChild b (BitVec.ofNat 16 t.next)), next := t.next + 1 }
  else t

/-- The walk of one Code from entry `cur`, making the children it lacks; the entry it ends at (R121). -/
def trieInsert : BitString → Nat → TrieBuild → Nat × TrieBuild
  | [], cur, t => (cur, t)
  | b :: c, cur, t =>
    let t' := trieGrow cur b t
    trieInsert c ((trieAt t'.nodes cur).child b).toNat t'

/-- Marking an entry as the Leaf of Symbol `s` (R121). -/
def trieMark (cur s : Nat) (t : TrieBuild) : TrieBuild :=
  let marked : TrieNode := { trieAt t.nodes cur with leaf := true, sym := BitVec.ofNat 8 s }
  { t with nodes := Sparse.set TrieNode.cleared t.nodes cur marked }

/-- One Symbol of the table into the trie (R121). -/
def trieAddSymbol (tab : CodeTable) (t : TrieBuild) (s : Nat) : TrieBuild :=
  if 0 < tab.len s then
    let (cur, t') := trieInsert (tab.codeOf s) 0 t
    trieMark cur s t'
  else t

/-- TRIE's effect (R121): from a cleared arena with the root in use, the Symbols in ascending order. -/
def buildTrie (s : State) : Except Raised State :=
  let t := (List.range 256).foldl (trieAddSymbol s.table) ⟨[], 1⟩
  .ok { s with trie := t.nodes, tcnt := BitVec.ofNat 16 t.next }

/-- TRIE (R121). -/
def execTrie (s : State) : Result := command buildTrie s

/-! ### MAPB -/

/-- One Symbol of the table into the map (R126). -/
def mapAddSymbol (tab : CodeTable) (m : Sparse Symbol) (s : Nat) : Sparse Symbol :=
  if 0 < tab.len s then mapSet m (tab.codeOf s) (BitVec.ofNat 8 s) else m

/-- MAPB's effect (R126). -/
def buildMap (s : State) : Except Raised State :=
  let m := (List.range 256).foldl (mapAddSymbol s.table) []
  .ok { s with map := m, mcnt := BitVec.ofNat 9 m.length }

/-- MAPB (R126). -/
def execMapb (s : State) : Result := command buildMap s

/-! ### What DECT and DECM share -/

/-- What an automaton does with one stream bit: it cannot go on, goes on, or emits a Symbol and starts over. -/
inductive Advance (σ : Type) where
  | stuck
  | more (st : σ)
  | emit (sym : Symbol)
  deriving DecidableEq, Repr

/-- The decode loop (R124, R129): until `need` more Symbols are out, one bit at a time; `cnt` Symbols are out already. It
answers the Symbols, or the count emitted before the failure, be it that the automaton is stuck or that no bits remain. -/
def decodeStream {σ : Type} (next : σ → Bool → Advance σ) (start : σ) :
    BitString → σ → Nat → Nat → Except Nat (List Symbol)
  | [], _, need, cnt => if need = 0 then .ok [] else .error cnt
  | b :: bs, st, need, cnt =>
    if need = 0 then .ok []
    else
      match next st b with
      | .stuck => .error cnt
      | .more st' => decodeStream next start bs st' need cnt
      | .emit sym =>
        match decodeStream next start bs start (need - 1) (cnt + 1) with
        | .ok out => .ok (sym :: out)
        | .error e => .error e

/-- `DecodePre` and the end of both commands around their loop (R123, R124, R129). The zero-count short circuit comes
first and looks at nothing else. -/
def decodeWith (loop : State → BitString → Nat → Except Nat (List Symbol)) (s : State) : Except Raised State :=
  if s.nsym = 0 then .ok { s with olen := 0 }
  else if s.cfg.bufBytes < s.ilen then .error ⟨.len, s.ilen⟩
  else if 8 * s.ilen < s.nsym then .error ⟨.format, s.nsym⟩
  else if s.cfg.bufBytes < s.nsym then .error ⟨.ovf, s.nsym⟩
  else
    match loop s (streamBits s.ibuf s.ilen) s.nsym with
    | .error cnt => .error ⟨.walk, cnt⟩
    | .ok out => .ok { s with obuf := s.obuf.writeBytes 0 out, olen := trunc s.cfg.lenW s.nsym }

/-! ### DECT -/

/-- The trie walk on one bit from entry `cur` (R124): a marked node ends the Code and the walk starts over at the root. -/
def trieStep (t : Sparse TrieNode) (cur : Nat) (b : Bool) : Advance Nat :=
  let nxt := (trieAt t cur).child b
  if nxt = 0xFFFF#16 then .stuck
  else if (trieAt t nxt.toNat).leaf then .emit (trieAt t nxt.toNat).sym
  else .more nxt.toNat

/-- The loop of R124. -/
def trieLoop (s : State) (bits : BitString) (need : Nat) : Except Nat (List Symbol) :=
  decodeStream (trieStep s.trie) 0 bits 0 need 0

/-- DECT (R124). -/
def execDect (s : State) : Result := outputCommand (decodeWith trieLoop) s

/-! ### DECM -/

/-- The candidate on one bit (R128, R129): append it, look the candidate up, on a match emit and clear it. -/
def mapStep (m : Sparse Symbol) (cand : BitString) (b : Bool) : Advance BitString :=
  match mapFind m (cand ++ [b]) with
  | some sym => .emit sym
  | none => .more (cand ++ [b])

/-- The loop of R129. It fails only when the bits run out; where a hopeless candidate is detected earlier is not
observable (R130, U7). -/
def mapLoop (s : State) (bits : BitString) (need : Nat) : Except Nat (List Symbol) :=
  decodeStream (mapStep s.map) [] bits [] need 0

/-- DECM (R129). -/
def execDecm (s : State) : Result := outputCommand (decodeWith mapLoop) s

end Sys2Proof.Machine
end

