-- ==== Sys2Proof/Machine/Encoder.lean ====
section
/-! DEFINITION. The encoder commands FCNT, TBLD, CGEN, PACK (spec/40_encoder.md). -/

namespace Sys2Proof.Machine

/-! ### FCNT -/

/-- `FREQ[b] <- FREQ[b] + 1`, LEN_W bits (R100). -/
def countByte (w : Nat) (f : Sparse Nat) (b : Byte) : Sparse Nat :=
  Sparse.set 0 f b.toNat (trunc w (Sparse.get 0 f b.toNat + 1))

/-- FCNT's effect (R100): all counters cleared, then one count a byte, and NSYM. -/
def countFrequencies (s : State) : Except Raised State :=
  if s.cfg.bufBytes < s.ilen then .error ⟨.len, s.ilen⟩
  else .ok { s with
    freq := (s.ibuf.bytes s.ilen).foldl (countByte s.cfg.lenW) []
    nsym := trunc s.cfg.lenW s.ilen }

/-- FCNT (R100). -/
def execFcnt (s : State) : Result := command countFrequencies s

/-! ### TBLD -/

/-- Node `a` is lower than node `b`: by frequency, then by key (R102). -/
def lower (a b : TreeNode) : Bool :=
  decide (a.freq < b.freq) || (decide (a.freq = b.freq) && decide (a.key < b.key))

/-- The Leaf of Symbol `s` (R104). -/
def leafNode (s f : Nat) : TreeNode where
  valid := true
  tag := false
  sym := BitVec.ofNat 8 s
  key := BitVec.ofNat 8 s
  freq := f

/-- The smaller of two keys (R103). -/
def minKey (a b : Byte) : Byte := if a < b then a else b

/-- The Internal node over the nodes at `a` and `b`, extracted in this order (R104); `fw` is the width LEN_W + 8 of its
frequency. -/
def internalNode (fw : Nat) (nodes : Sparse TreeNode) (a b : Nat) : TreeNode where
  valid := true
  tag := true
  sym := 0#8
  key := minKey (nodeAt nodes a).key (nodeAt nodes b).key
  freq := trunc fw ((nodeAt nodes a).freq + (nodeAt nodes b).freq)
  left := BitVec.ofNat 9 a
  right := BitVec.ofNat 9 b

/-- The Symbols with frequency > 0, ascending: the queue's first members (R104). -/
def presentSymbols (freq : Sparse Nat) : List Nat :=
  (List.range 256).filter fun s => decide (0 < Sparse.get 0 freq s)

/-- The arena with the Leaf of every Symbol listed and nothing else (R104). -/
def plantLeaves (freq : Sparse Nat) (syms : List Nat) : Sparse TreeNode :=
  syms.foldl (fun m s => Sparse.set TreeNode.cleared m s (leafNode s (Sparse.get 0 freq s))) []

/-- The lowest member of the queue by R102. -/
def lowest (nodes : Sparse TreeNode) : List Nat → Option Nat
  | [] => none
  | i :: q =>
    match lowest nodes q with
    | none => some i
    | some j => if lower (nodeAt nodes j) (nodeAt nodes i) then some j else some i

/-- The lowest member and the queue without it. -/
def extract (nodes : Sparse TreeNode) (q : List Nat) : Option (Nat × List Nat) :=
  (lowest nodes q).map fun a => (a, q.erase a)

/-- The merges of R104, from creation number `k` on, until fewer than two members are left. Each merge shortens the queue
by one, so `fuel` = its length is enough. -/
def mergeAll (fw : Nat) : Nat → Sparse TreeNode → List Nat → Nat → Sparse TreeNode × List Nat
  | 0, nodes, q, _ => (nodes, q)
  | fuel + 1, nodes, q, k =>
    match extract nodes q with
    | none => (nodes, q)
    | some (a, q₁) =>
      match extract nodes q₁ with
      | none => (nodes, q)
      | some (b, q₂) =>
        mergeAll fw fuel (Sparse.set TreeNode.cleared nodes (256 + k) (internalNode fw nodes a b))
          (q₂ ++ [256 + k]) (k + 1)

/-- TBLD's effect (R104). It depends on FREQ alone (R105). -/
def buildTree (s : State) : Except Raised State :=
  let syms := presentSymbols s.freq
  let (nodes, q) := mergeAll (s.cfg.lenW + 8) syms.length (plantLeaves s.freq syms) syms 0
  .ok { s with
    node := nodes
    root := match q with
      | [r] => BitVec.ofNat 9 r
      | _ => 0x1FF#9
    nleaf := BitVec.ofNat 9 syms.length }

/-- TBLD (R104). -/
def execTbld (s : State) : Result := command buildTree s

/-! ### CGEN -/

/-- What CGEN writes: the code table and the weighted path length. -/
structure CodeGen where
  table : CodeTable
  wpl : Nat
  deriving DecidableEq, Repr

/-- A Leaf receives its Code, and the sum grows by `freq × len(code)`; `ww` is the width LEN_W + 16 of WPL (R106). -/
def giveCode (ww : Nat) (nd : TreeNode) (path : BitString) (g : CodeGen) : CodeGen where
  table := g.table.setCode nd.sym.toNat path
  wpl := trunc ww (g.wpl + nd.freq * path.length)

/-- `Assign(n, path)` (R106): left subtree first. It answers nothing where the walk meets an entry that is no node of the
tree or runs deeper than `fuel`, which happens on no arena that TBLD builds. -/
def assignCodes (ww : Nat) (nodes : Sparse TreeNode) : Nat → Nat → BitString → CodeGen → Option CodeGen
  | 0, _, _, _ => none
  | fuel + 1, n, path, g =>
    let nd := nodeAt nodes n
    if !nd.valid then none
    else if !nd.tag then some (giveCode ww nd path g)
    else
      match assignCodes ww nodes fuel nd.left.toNat (path ++ [false]) g with
      | none => none
      | some g' => assignCodes ww nodes fuel nd.right.toNat (path ++ [true]) g'

/-- CGEN's walk (R106): the empty tree, the sole Leaf with its fallback Code "0" (R107), or the walk from the root. A path
has at most 255 bits (R11), so the walk is at most 256 nodes deep. -/
def generateCodes (s : State) : Option CodeGen :=
  let start : CodeGen := ⟨CodeTable.empty, 0⟩
  let ww := s.cfg.lenW + 16
  let r := nodeAt s.node s.root.toNat
  if s.root = 0x1FF#9 then some start
  else if !r.valid then none
  else if !r.tag then some (giveCode ww r [false] start)
  else assignCodes ww s.node 256 s.root.toNat [] start

/-- CGEN (R106). -/
def execCgen (s : State) : Result :=
  unlessStopped (fun s =>
    match generateCodes s with
    | some g => .next { s with table := g.table, wpl := g.wpl }.retire
    | none => .fault .notATree) s

/-! ### PACK -/

/-- The index of the first byte without a Code, if there is one (R110, R194). -/
def firstNoCode (t : CodeTable) : List Byte → Nat → Option Nat
  | [], _ => none
  | b :: bs, i => if t.len b.toNat = 0 then some i else firstNoCode t bs (i + 1)

/-- The concatenation S of the input Symbols' Codes (R89). -/
def codeBits (t : CodeTable) (bs : List Byte) : BitString := bs.flatMap fun b => t.codeOf b.toNat

/-- `T`, the total number of code bits (R110). -/
def totalBits (t : CodeTable) (bs : List Byte) : Nat := (bs.map fun b => t.len b.toNat).sum

/-- The pack phase of R110: bits into the 8-bit accumulator, MSB first, a byte out at every eighth, and the last partial
group shifted to the high-order bits. -/
def packBits : BitString → BitVec 8 → Nat → List Byte
  | [], acc, nb => if 0 < nb then [acc <<< (8 - nb)] else []
  | c :: cs, acc, nb =>
    let acc' := (acc <<< 1) ||| (BitVec.ofBool c).setWidth 8
    if nb + 1 = 8 then acc' :: packBits cs 0#8 0 else packBits cs acc' (nb + 1)

/-- PACK's effect (R110). -/
def packBuffer (s : State) : Except Raised State :=
  if s.cfg.bufBytes < s.ilen then .error ⟨.len, s.ilen⟩
  else
    let input := s.ibuf.bytes s.ilen
    match firstNoCode s.table input 0 with
    | some i => .error ⟨.noCode, i⟩
    | none =>
      let need := ceilDiv (totalBits s.table input) 8
      if s.cfg.bufBytes < need then .error ⟨.ovf, need⟩
      else
        let out := packBits (codeBits s.table input) 0#8 0
        .ok { s with obuf := s.obuf.writeBytes 0 out, olen := trunc s.cfg.lenW out.length }

/-- PACK (R110). -/
def execPack (s : State) : Result := outputCommand packBuffer s

end Sys2Proof.Machine
end

