-- ==== Sys2Proof/Machine/HashCipher.lean ====
section
/-! DEFINITION. The integrity hasher HASH and the obfuscation cipher CIPHF, CIPHI (spec/42_hash_cipher.md). -/

namespace Sys2Proof.Machine

/-- One byte into the accumulator: XOR, then multiply modulo 2^64 (R140). -/
def hashStep (c : Config) (h : BitVec 64) (b : Byte) : BitVec 64 := (h ^^^ b.setWidth 64) * c.hashMult

/-- The ContentHash of a byte sequence (R140). -/
def contentHash (c : Config) (bs : List Byte) : BitVec 64 := bs.foldl (hashStep c) c.hashInit

/-- `HASH b`'s effect (R140). -/
def hashBuffer (b : BufSel) (s : State) : Except Raised State :=
  if s.cfg.bufBytes < s.len b then .error ⟨.len, s.len b⟩
  else .ok (s.setHash (contentHash s.cfg ((s.buf b).bytes (s.len b))) b)

/-- HASH (R140). -/
def execHash (b : BufSel) (s : State) : Result := command (hashBuffer b) s

/-- The keyed cipher on byte `i`: XOR with the repeating key, whose index starts at 0 in every command (R144, R145). -/
def xorKey (s : State) (i : Nat) (v : Byte) : Byte := v ^^^ s.key.read (i % s.klen.toNat)

/-- The forward cipher on byte `i` of a buffer; KLEN alone selects the mode (R28, R144). -/
def cipherForward (s : State) (i : Nat) (v : Byte) : Byte :=
  if s.klen = 0#16 then v + s.cfg.addK else xorKey s i v

/-- The inverse cipher on byte `i` of a buffer (R145). -/
def cipherInverse (s : State) (i : Nat) (v : Byte) : Byte :=
  if s.klen = 0#16 then v - s.cfg.addK else xorKey s i v

/-- A cipher command over the valid bytes of `BUF(b)`, in place. The buffer length is checked before the key length
(R144, R145, R191). -/
def cipherBuffer (f : State → Nat → Byte → Byte) (b : BufSel) (s : State) : Except Raised State :=
  if s.cfg.bufBytes < s.len b then .error ⟨.len, s.len b⟩
  else if s.cfg.keyBytes < s.klen.toNat then .error ⟨.len, s.klen.toNat⟩
  else .ok (s.setBuf ((s.buf b).writeBytes 0 ((List.range (s.len b)).map fun i => f s i ((s.buf b).read i))) b)

/-- CIPHF (R144). -/
def execCiphf (b : BufSel) (s : State) : Result := command (cipherBuffer cipherForward b) s

/-- CIPHI (R145). -/
def execCiphi (b : BufSel) (s : State) : Result := command (cipherBuffer cipherInverse b) s

end Sys2Proof.Machine
end

