-- ==== Sys2Proof/Machine/Dispatch.lean ====
section
/-! DEFINITION. The meaning of every command, one arm per constructor of Instr (spec/30_encoding.md R82). -/

namespace Sys2Proof.Machine

def exec (i : Instr) (s : State) : Host.Outcome State Fault Refusal :=
  match i with
  | .nop => Sys2Proof.Machine.execNop s
  | .rst => Sys2Proof.Machine.execRst s
  | .swap => Sys2Proof.Machine.execSwap s
  | .ciphf b => Sys2Proof.Machine.execCiphf b s
  | .ciphi b => Sys2Proof.Machine.execCiphi b s
  | .hash b => Sys2Proof.Machine.execHash b s
  | .fcnt => Sys2Proof.Machine.execFcnt s
  | .tbld => Sys2Proof.Machine.execTbld s
  | .cgen => Sys2Proof.Machine.execCgen s
  | .pack => Sys2Proof.Machine.execPack s
  | .trie => Sys2Proof.Machine.execTrie s
  | .dect => Sys2Proof.Machine.execDect s
  | .mapb => Sys2Proof.Machine.execMapb s
  | .decm => Sys2Proof.Machine.execDecm s

end Sys2Proof.Machine
end

