-- ==== Sys2Proof/Machine/HostPort.lean ====
section
/-! DEFINITION. The host port: what `HostRead` returns and what `HostWrite` changes (spec/20_memory.md R60 to R65). -/

namespace Sys2Proof.Machine

/-- The nine address spaces (R60). -/
inductive Space where
  | reg
  | ibuf
  | obuf
  | key
  | freq
  | clen
  | cbits
  | node
  | trie
  deriving DecidableEq, Repr

/-- The space ids of R60, in order. -/
def allSpaces : List Space := [.reg, .ibuf, .obuf, .key, .freq, .clen, .cbits, .node, .trie]

/-- The space of an id; ids 9 and above do not exist (R60). -/
def Space.ofId (n : Nat) : Option Space := allSpaces[n]?

/-- The id of a space (R60). -/
def Space.id (sp : Space) : Nat := allSpaces.idxOf sp

/-- The sixteen scalar registers (R21). -/
inductive Reg where
  | status
  | err
  | einfo
  | ccnt
  | ilen
  | olen
  | nsym
  | klen
  | cadd
  | wpl
  | root
  | nleaf
  | tcnt
  | mcnt
  | hash0
  | hash1
  deriving DecidableEq, Repr

/-- The registers in the order of their index (R21). -/
def allRegs : List Reg :=
  [.status, .err, .einfo, .ccnt, .ilen, .olen, .nsym, .klen, .cadd, .wpl, .root, .nleaf, .tcnt, .mcnt, .hash0, .hash1]

/-- The register of an index (R21). -/
def Reg.ofIndex (n : Nat) : Option Reg := allRegs[n]?

/-- The index of a register (R21). -/
def Reg.index (r : Reg) : Nat := allRegs.idxOf r

/-- `x[NAME]` as a number (R21). -/
def State.readReg (s : State) : Reg → Nat
  | .status => s.status.toNat
  | .err => s.err.toNat
  | .einfo => s.einfo
  | .ccnt => s.ccnt.toNat
  | .ilen => s.ilen
  | .olen => s.olen
  | .nsym => s.nsym
  | .klen => s.klen.toNat
  | .cadd => s.cfg.addK.toNat
  | .wpl => s.wpl
  | .root => s.root.toNat
  | .nleaf => s.nleaf.toNat
  | .tcnt => s.tcnt.toNat
  | .mcnt => s.mcnt.toNat
  | .hash0 => s.hash0.toNat
  | .hash1 => s.hash1.toNat

/-- `HostWrite` to a register: only ILEN, NSYM and KLEN take the value, truncated to their width (R21, R62). -/
def State.writeReg (s : State) (v : Nat) : Reg → State
  | .ilen => { s with ilen := trunc s.cfg.lenW v }
  | .nsym => { s with nsym := trunc s.cfg.lenW v }
  | .klen => { s with klen := BitVec.ofNat 16 v }
  | .status | .err | .einfo | .ccnt | .olen | .cadd | .wpl | .root | .nleaf | .tcnt | .mcnt | .hash0 | .hash1 => s

/-- The fields `(value, width)` joined with the first in the high bits, the `‖` of R13. -/
def joinFields (fields : List (Nat × Nat)) : Nat :=
  fields.foldl (fun a f => a * 2 ^ f.2 + f.1 % 2 ^ f.2) 0

/-- A NODE element as `HostRead` returns it: LEN_W + 44 bits, valid the top one (R65). -/
def TreeNode.pack (c : Config) (n : TreeNode) : Nat :=
  joinFields [(n.valid.toNat, 1), (n.tag.toNat, 1), (n.sym.toNat, 8), (n.key.toNat, 8), (n.left.toNat, 9),
    (n.right.toNat, 9), (n.freq, c.lenW + 8)]

/-- A TRIE element as `HostRead` returns it: 41 bits, leaf the top one (R65). -/
def TrieNode.pack (n : TrieNode) : Nat :=
  joinFields [(n.leaf.toNat, 1), (n.sym.toNat, 8), (n.ch1.toNat, 16), (n.ch0.toNat, 16)]

/-- The number of elements of a space (R60). -/
def State.size (s : State) : Space → Nat
  | .reg => 16
  | .ibuf => s.cfg.bufBytes
  | .obuf => s.cfg.bufBytes
  | .key => s.cfg.keyBytes
  | .freq => 256
  | .clen => 256
  | .cbits => 8192
  | .node => 511
  | .trie => s.cfg.trieNodes

/-- Element `i` of a space, `i` inside it. -/
def State.element (s : State) (i : Nat) : Space → Nat
  | .reg => ((Reg.ofIndex i).map s.readReg).getD 0
  | .ibuf => (s.ibuf.read i).toNat
  | .obuf => (s.obuf.read i).toNat
  | .key => (s.key.read i).toNat
  | .freq => Sparse.get 0 s.freq i
  | .clen => (Sparse.get 0#8 s.table.clen i).toNat
  | .cbits => (Sparse.get 0#8 s.table.cbits i).toNat
  | .node => (nodeAt s.node i).pack s.cfg
  | .trie => (trieAt s.trie i).pack

/-- `HostRead(space, i)` (R63): 0 outside the space and in a space that does not exist. -/
def State.hostRead (s : State) (space i : Nat) : Nat :=
  match Space.ofId space with
  | none => 0
  | some sp => if i < s.size sp then s.element i sp else 0

/-- `HostWrite` to element `i` of a space, `i` inside it (R62). OBUF, NODE and TRIE are read-only (R60). -/
def State.setElement (s : State) (i v : Nat) : Space → State
  | .reg =>
    match Reg.ofIndex i with
    | some r => s.writeReg v r
    | none => s
  | .ibuf => { s with ibuf := s.ibuf.write i (BitVec.ofNat 8 v) }
  | .obuf => s
  | .key => { s with key := s.key.write i (BitVec.ofNat 8 v) }
  | .freq => { s with freq := Sparse.set 0 s.freq i (trunc s.cfg.lenW v) }
  | .clen => { s with table := { s.table with clen := Sparse.set 0#8 s.table.clen i (BitVec.ofNat 8 v) } }
  | .cbits => { s with table := { s.table with cbits := Sparse.set 0#8 s.table.cbits i (BitVec.ofNat 8 v) } }
  | .node => s
  | .trie => s

/-- `HostWrite(space, i, v)` (R62): ignored outside the space and in a space that does not exist. -/
def State.hostWrite (s : State) (space i v : Nat) : State :=
  match Space.ofId space with
  | none => s
  | some sp => if i < s.size sp then s.setElement i v sp else s

end Sys2Proof.Machine
end

