-- ==== Sys2Proof/Machine/Issue.lean ====
section
/-! DEFINITION. Handing a command word to the block (spec/20_memory.md R64, spec/30_encoding.md R81) and running one host
step (spec/00_scope.md R18, R19). -/

namespace Sys2Proof.Machine

/-- An illegal word (R85): ERR_ILLEGAL with the word as info, unless the block is in error-stop. -/
def illegalWord (w : CmdWord) : State → Result :=
  command fun _ => .error ⟨.illegal, w.toNat⟩

/-- `HostCmd(w)` (R64, R81). Case 1 of R81, the drop in error-stop, is part of every command but RST and of the illegal
word, through `unlessStopped`. -/
def hostCmd (w : CmdWord) (s : State) : Result :=
  match decode w with
  | .ok i => exec i s
  | .error _ => illegalWord w s

/-- One host step on the block (R62 to R64, R220). -/
def runHostStep (h : HostStep) (s : State) : Result :=
  match h with
  | .write sp i v => .next (s.hostWrite sp i v)
  | .read sp i => .next { s with replies := s.replies ++ [s.hostRead sp i] }
  | .cmd w => hostCmd w s
  | .hardwareReset => .next s.hardwareReset

/-- The state in which the host's next step is the command word `w`. -/
def State.issueFirst (s : State) (w : CmdWord) : State := { s with pending := .cmd w :: s.pending }

end Sys2Proof.Machine
end

