-- ==== Sys2Proof/Machine/Step.lean ====
section
/-! DEFINITION. One step of the machine: the host's next step (spec/00_scope.md R18, R19; spec/70_reset_and_hazards.md
R232). -/

namespace Sys2Proof.Machine

/-- One step: the first pending host step leaves the list and runs. With none pending the block is idle and keeps all state
(R204, R220; log entry 7). -/
def step (s : State) : Host.Outcome State Fault Refusal :=
  match s.pending with
  | [] => .next s
  | h :: rest => runHostStep h { s with pending := rest }

/-- `s` with the given command word as the host's next step: the block fetches nothing (R64), so the word the next step
runs is the one the host issues next. -/
def State.withFetchWord (s : State) (nbits w : Nat) : State :=
  s.issueFirst (BitVec.ofNat 16 (w % 2 ^ nbits))

end Sys2Proof.Machine
end

