-- ==== Sys2Proof/Machine/TextTable.lean ====
section
/-! DEFINITION. The persisted code-table text format (spec/44_host_pipeline.md R170 to R177) and the host conditions
(R169). Host software, not the block. -/

namespace Sys2Proof.Machine

/-- A text, one character an element. -/
abbrev Text := List Char

/-- The host conditions of R169. None of them is an ERR code of the block. -/
inductive HostCondition where
  /-- IO_ERROR, class (1). Raised by `sendFile` and `receiveFile` for an unreadable source or an unwritable destination. -/
  | ioError
  /-- FORMAT_ERROR, class (2). Raised by `textToTable`, and by `decompress` for the block's ERR_FORMAT. -/
  | formatError
  /-- VALIDATION_MISMATCH, class (4). Raised by `checkTags`. -/
  | validationMismatch
  deriving DecidableEq, Repr

/-! ### The writer -/

/-- The upper-case digits of R173. -/
def digitChars : List Char := ['0', '1', '2', '3', '4', '5', '6', '7', '8', '9', 'A', 'B', 'C', 'D', 'E', 'F']

/-- One digit. -/
def digitChar (v : Nat) : Char := digitChars.getD v '0'

/-- `HEX2(v)`: the two upper-case hex digits of a byte (R174). -/
def hex2 (v : Byte) : Text := [digitChar (v.toNat / 16), digitChar (v.toNat % 16)]

/-- The decimal digits of `n` before `acc`; a number has fewer digits than `fuel = n + 1`. -/
def decimalLoop : Nat → Nat → Text → Text
  | 0, _, acc => acc
  | fuel + 1, n, acc =>
    if n < 10 then digitChar n :: acc else decimalLoop fuel (n / 10) (digitChar (n % 10) :: acc)

/-- `decimal(n)`: no sign, no leading zeros, `0` for 0 (R170). -/
def decimal (n : Nat) : Text := decimalLoop (n + 1) n []

/-- A field, `0x` and two upper-case digits (R173 c). -/
def hexField (v : Byte) : Text := '0' :: 'x' :: hex2 v

/-- The record line of Symbol `s` without its line feed: `0xBB 0xLL 0xC0 ...` (R171, R174). The bits beyond `CLEN[s]`
are forced to 0, which is what `codeByte` of the Code gives. -/
def recordLine (t : CodeTable) (s : Nat) : Text :=
  hexField (BitVec.ofNat 8 s) ++ ' ' :: hexField (BitVec.ofNat 8 (t.len s)) ++
    (List.range (ceilDiv (t.len s) 8)).flatMap fun j => ' ' :: hexField (codeByte (t.codeOf s) j)

/-- `TableToText` (R174): line 1 and the records in ascending order, absent Symbols skipped (R172), a line feed after
every line (R173 d). -/
def tableToText (nsym : Nat) (t : CodeTable) : Text :=
  decimal nsym ++ '\n' ::
    (List.range 256).flatMap fun s => if 0 < t.len s then recordLine t s ++ ['\n'] else []

/-! ### The reader -/

/-- What `TextToTable` returns: NSYM, and CLEN with CBITS (R175). -/
structure TableImage where
  nsym : Nat
  table : CodeTable
  deriving DecidableEq, Repr

/-- The pieces of a text between the separators `c`: one more than there are separators. -/
def splitAt (c : Char) : Text → List Text
  | [] => [[]]
  | x :: xs =>
    if x = c then [] :: splitAt c xs
    else
      match splitAt c xs with
      | [] => [[x]]
      | p :: ps => (x :: p) :: ps

/-- One carriage return at the end of a line is dropped (R175). -/
def dropReturn (line : Text) : Text := if line.getLast? = some '\r' then line.dropLast else line

/-- The lines of a text (R175): what ends at a line feed loses one carriage return before it; a last line without a line
feed is a line too. -/
def textLines (text : Text) : List Text :=
  let pieces := splitAt '\n' text
  let ended := pieces.dropLast.map dropReturn
  match pieces.getLast? with
  | none => ended
  | some [] => ended
  | some last => ended ++ [last]

/-- The value of a digit: 0 to 15, either case (R175). -/
def digitValue (c : Char) : Option Nat :=
  if '0'.toNat ≤ c.toNat && c.toNat ≤ '9'.toNat then some (c.toNat - '0'.toNat)
  else if 'A'.toNat ≤ c.toNat && c.toNat ≤ 'F'.toNat then some (c.toNat - 'A'.toNat + 10)
  else if 'a'.toNat ≤ c.toNat && c.toNat ≤ 'f'.toNat then some (c.toNat - 'a'.toNat + 10)
  else none

/-- The number the digits of `base` spell after `acc`. -/
def numberLoop (base : Nat) : Text → Nat → Option Nat
  | [], acc => some acc
  | c :: cs, acc =>
    match digitValue c with
    | some d => if d < base then numberLoop base cs (acc * base + d) else none
    | none => none

/-- The number one or more digits of `base` spell. -/
def number (base : Nat) (t : Text) : Option Nat := if t = [] then none else numberLoop base t 0

/-- A field: `0x` or `0X` and one or more hex digits (R175, R176 c). -/
def fieldValue : Text → Option Nat
  | '0' :: 'x' :: ds => number 16 ds
  | '0' :: 'X' :: ds => number 16 ds
  | _ => none

/-- One record: Symbol, Code length, code bytes. -/
structure Record where
  sym : Nat
  len : Nat
  bytes : List Nat
  deriving DecidableEq, Repr

/-- The checks (d) to (g) of R176 on a record. -/
def recordOk (r : Record) : Bool :=
  decide (r.sym ≤ 255) && decide (1 ≤ r.len) && decide (r.len ≤ 255) && r.bytes.all (fun b => decide (b ≤ 255)) &&
  decide (r.bytes.length = ceilDiv r.len 8) &&
  decide ((r.bytes.getLast?.getD 0) % 2 ^ (8 * ceilDiv r.len 8 - r.len) = 0)

/-- One record line (R175, R176 c to g). -/
def parseRecord (line : Text) : Option Record :=
  match (splitAt ' ' line).mapM fieldValue with
  | some (s :: ll :: b :: bs) =>
    let r : Record := ⟨s, ll, b :: bs⟩
    if recordOk r then some r else none
  | _ => none

/-- `CBITS[s][j] <- code byte j` from `j` on (R175). -/
def storeCodeBytes (s : Nat) : List Nat → Nat → Sparse Byte → Sparse Byte
  | [], _, m => m
  | b :: bs, j, m => storeCodeBytes s bs (j + 1) (Sparse.set 0#8 m (32 * s + j) (BitVec.ofNat 8 b))

/-- `CLEN[s] <- LL` and the code bytes (R175). -/
def storeRecord (t : CodeTable) (r : Record) : CodeTable where
  clen := Sparse.set 0#8 t.clen r.sym (BitVec.ofNat 8 r.len)
  cbits := storeCodeBytes r.sym r.bytes 0 t.cbits

/-- The record lines, whose Symbols must be at least `low` and strictly ascending (R176 h). -/
def readRecords : List Text → Nat → CodeTable → Option CodeTable
  | [], _, t => some t
  | line :: lines, low, t =>
    match parseRecord line with
    | some r => if low ≤ r.sym then readRecords lines (r.sym + 1) (storeRecord t r) else none
    | none => none

/-- The record lines less the empty ones after the last record (R176 b). -/
def dropEmptyTail (lines : List Text) : List Text := (lines.reverse.dropWhile List.isEmpty).reverse

/-- `TextToTable` (R175, R176) on a block whose LEN_W is `lenW`. -/
def textToTable (lenW : Nat) (text : Text) : Except HostCondition TableImage :=
  match textLines text with
  | [] => .error .formatError
  | first :: records =>
    match number 10 first with
    | none => .error .formatError
    | some n =>
      if n < 2 ^ lenW then
        match readRecords (dropEmptyTail records) 0 CodeTable.empty with
        | some t => .ok ⟨n, t⟩
        | none => .error .formatError
      else .error .formatError

end Sys2Proof.Machine
end

