-- ==== Sys2Proof/Machine/Assembler.lean ====
section
/-! DEFINITION. Listings: commands, host directives and pseudo-instructions, and their text (spec/30_encoding.md R86 to
R88). Host software, not the block. -/

namespace Sys2Proof.Machine

/-- The pseudo-instructions of R88. -/
inductive Pseudo where
  | encode
  | encodex
  | decodet
  | decodem
  | decodetx
  | decodemx
  deriving DecidableEq, Repr

/-- The expansion column of R88. -/
def Pseudo.expand : Pseudo → List Instr
  | .encode => [.fcnt, .tbld, .cgen, .pack]
  | .encodex => [.ciphf .input, .fcnt, .tbld, .cgen, .pack]
  | .decodet => [.trie, .dect]
  | .decodem => [.mapb, .decm]
  | .decodetx => [.trie, .dect, .ciphi .output]
  | .decodemx => [.mapb, .decm, .ciphi .output]

/-- One statement of a listing (R86, R87, R88). -/
inductive Statement where
  | command (i : Instr)
  | pseudo (p : Pseudo)
  | ibuf (bytes : List Byte)
  | key (bytes : List Byte)
  | nsym (n : Nat)
  | freq (s n : Nat)
  | code (s : Nat) (bits : BitString)
  | nocode (s : Nat)
  | set (space i v : Nat)
  | expect (space i v : Nat)
  | cmd (w : CmdWord)
  deriving DecidableEq, Repr

/-- `HostWrite(space, i, byte)` for each byte in order. -/
def writeEach (sp : Space) : Nat → List Byte → List HostStep
  | _, [] => []
  | i, b :: bs => .write sp.id i b.toNat :: writeEach sp (i + 1) bs

/-- A command statement assembles to exactly one `HostCmd` (R86). -/
def commandStep (i : Instr) : HostStep := .cmd (encode i)

/-- `HostWrite(REG, NAME, v)`. -/
def registerStep (r : Reg) (v : Nat) : HostStep := .write Space.reg.id r.index v

/-- The writes that have the effect of `SetCode(s, c)`, of `ClearCode(s)` when `c` is empty (R40, R87). -/
def codeSteps (s : Nat) (c : BitString) : List HostStep :=
  .write Space.clen.id s c.length :: writeEach .cbits (32 * s) ((List.range 32).map (codeByte c))

/-- The host steps a statement stands for (R86 to R88). -/
def Statement.steps : Statement → List HostStep
  | .command i => [commandStep i]
  | .pseudo p => p.expand.map commandStep
  | .ibuf bs => writeEach .ibuf 0 bs ++ [registerStep .ilen bs.length]
  | .key bs => writeEach .key 0 bs ++ [registerStep .klen bs.length]
  | .nsym n => [registerStep .nsym n]
  | .freq s n => [.write Space.freq.id s n]
  | .code s c => codeSteps s c
  | .nocode s => codeSteps s []
  | .set sp i v => [.write sp i v]
  | .expect sp i _ => [.read sp i]
  | .cmd w => [.cmd w]

/-- The values a statement claims its reads return (R87, `.expect`). -/
def Statement.claims : Statement → List Nat
  | .expect _ _ v => [v]
  | .command _ | .pseudo _ | .ibuf _ | .key _ | .nsym _ | .freq _ _ | .code _ _ | .nocode _ | .set _ _ _ | .cmd _ => []

/-- The program of a listing: "the listing order is the issue order" (R86). -/
def assemble (listing : List Statement) : List HostStep := listing.flatMap Statement.steps

/-- What a listing claims of the replies its run leaves, oldest first (R87). -/
def listingClaims (listing : List Statement) : List Nat := listing.flatMap Statement.claims

/-! ### The text of a listing -/

/-- The text of a line before its comment: `;` outside double quotes starts one (R86; log entry 9). -/
def stripComment : Text → Bool → Text
  | [], _ => []
  | c :: cs, quoted =>
    if c = ';' && !quoted then []
    else c :: stripComment cs (if c = '"' then !quoted else quoted)

/-- A line without the blanks at its ends. -/
def trimBlanks (t : Text) : Text :=
  let blank := fun c => c = ' ' || c = '\t' || c = '\r'
  ((t.dropWhile blank).reverse.dropWhile blank).reverse

/-- The mnemonics without an operand (R82, R86). -/
def plainMnemonics : List (Text × Instr) :=
  [("NOP".toList, .nop), ("RST".toList, .rst), ("SWAP".toList, .swap), ("FCNT".toList, .fcnt), ("TBLD".toList, .tbld),
   ("CGEN".toList, .cgen), ("PACK".toList, .pack), ("TRIE".toList, .trie), ("DECT".toList, .dect),
   ("MAPB".toList, .mapb), ("DECM".toList, .decm)]

/-- The mnemonics followed by one space and `0` or `1` (R86). -/
def operandMnemonics : List (Text × Instr) :=
  [("CIPHF 0".toList, .ciphf .input), ("CIPHF 1".toList, .ciphf .output),
   ("CIPHI 0".toList, .ciphi .input), ("CIPHI 1".toList, .ciphi .output),
   ("HASH 0".toList, .hash .input), ("HASH 1".toList, .hash .output)]

/-- The names of R88. -/
def pseudoNames : List (Text × Pseudo) :=
  [("ENCODE".toList, .encode), ("ENCODEX".toList, .encodex), ("DECODET".toList, .decodet), ("DECODEM".toList, .decodem),
   ("DECODETX".toList, .decodetx), ("DECODEMX".toList, .decodemx)]

/-- The names of R60. -/
def spaceNames : List (Text × Space) :=
  [("REG".toList, .reg), ("IBUF".toList, .ibuf), ("OBUF".toList, .obuf), ("KEY".toList, .key), ("FREQ".toList, .freq),
   ("CLEN".toList, .clen), ("CBITS".toList, .cbits), ("NODE".toList, .node), ("TRIE".toList, .trie)]

/-- The names of R21. -/
def regNames : List (Text × Reg) :=
  [("STATUS".toList, .status), ("ERR".toList, .err), ("EINFO".toList, .einfo), ("CCNT".toList, .ccnt),
   ("ILEN".toList, .ilen), ("OLEN".toList, .olen), ("NSYM".toList, .nsym), ("KLEN".toList, .klen),
   ("CADD".toList, .cadd), ("WPL".toList, .wpl), ("ROOT".toList, .root), ("NLEAF".toList, .nleaf),
   ("TCNT".toList, .tcnt), ("MCNT".toList, .mcnt), ("HASH0".toList, .hash0), ("HASH1".toList, .hash1)]

/-- A number as R13 writes it: `0x` hexadecimal, `0b` binary, else decimal. -/
def literal : Text → Option Nat
  | '0' :: 'x' :: ds => number 16 ds
  | '0' :: 'b' :: ds => number 2 ds
  | t => number 10 t

/-- A byte value, or a Symbol. -/
def byteLiteral (t : Text) : Option Nat := (literal t).filter fun v => decide (v ≤ 255)

/-- The text between the double quotes that begin and end `t`. -/
def quotedText : Text → Option Text
  | '"' :: t => if t.getLast? = some '"' && !(t.dropLast.contains '"') then some t.dropLast else none
  | _ => none

/-- `<bytes>` of R87: a double-quoted ASCII string, or `0x` hex bytes separated by spaces; none of them is the empty
list. -/
def bytesArgument (t : Text) : Option (List Byte) :=
  match quotedText t with
  | some cs => if cs.all (fun c => decide (c.toNat < 128)) then some (cs.map fun c => BitVec.ofNat 8 c.toNat) else none
  | none =>
    if t = [] then some []
    else (splitAt ' ' t).mapM fun f =>
      match f with
      | '0' :: 'x' :: ds => ((number 16 ds).filter fun v => decide (v ≤ 255)).map (BitVec.ofNat 8)
      | _ => none

/-- `"<bits>"` of R87: 1 to 255 binary digits (R40). -/
def bitsArgument (t : Text) : Option BitString := do
  let cs ← quotedText t
  let bits ← cs.mapM fun c => if c = '0' then some false else if c = '1' then some true else none
  if codeWellFormed bits then some bits else none

/-- `<i>` of R87: a number, in space REG also a register's name. -/
def indexArgument (sp : Space) (t : Text) : Option Nat :=
  match literal t with
  | some n => some n
  | none => if sp = .reg then (regNames.lookup t).map Reg.index else none

/-- `<space> <i> <v>` of R87. -/
def elementArgument (t : Text) : Option (Nat × Nat × Nat) :=
  match splitAt ' ' t with
  | [sp, i, v] => do
    let space ← spaceNames.lookup sp
    let index ← indexArgument space i
    let value ← literal v
    some (space.id, index, value)
  | _ => none

/-- A directive from its name and the rest of its line (R87). -/
def parseDirective (name rest : Text) : Option Statement :=
  if name = ".ibuf".toList then (bytesArgument rest).map .ibuf
  else if name = ".key".toList then (bytesArgument rest).map .key
  else if name = ".nsym".toList then (literal rest).map .nsym
  else if name = ".cmd".toList then ((literal rest).filter fun w => decide (w < 65536)).map fun w => .cmd (BitVec.ofNat 16 w)
  else if name = ".nocode".toList then (byteLiteral rest).map .nocode
  else if name = ".set".toList then (elementArgument rest).map fun (sp, i, v) => .set sp i v
  else if name = ".expect".toList then (elementArgument rest).map fun (sp, i, v) => .expect sp i v
  else
    match splitAt ' ' rest with
    | [a, b] =>
      if name = ".freq".toList then do
        let s ← byteLiteral a
        let n ← literal b
        some (.freq s n)
      else if name = ".code".toList then do
        let s ← byteLiteral a
        let c ← bitsArgument b
        some (.code s c)
      else none
    | _ => none

/-- A statement's text, its comment and outer blanks removed (R86). A directive's name ends at the first space, and further
blanks before its argument are dropped; a tab right after the name is part of the name, so such a line is refused. The
separator is the model's choice, R87 giving none (log entry 9, DESIGN CHOICE). -/
def parseStatement (line : Text) : Option Statement :=
  match plainMnemonics.lookup line with
  | some i => some (.command i)
  | none =>
    match operandMnemonics.lookup line with
    | some i => some (.command i)
    | none =>
      match pseudoNames.lookup line with
      | some p => some (.pseudo p)
      | none =>
        let name := line.takeWhile (· != ' ')
        parseDirective name (trimBlanks (line.drop name.length))

/-- A listing's text: one statement per line, blank lines ignored (R86). It answers nothing for a line that is no
statement. -/
def parseListing (text : Text) : Option (List Statement) :=
  (((splitAt '\n' text).map fun line => trimBlanks (stripComment line false)).filter fun line => !line.isEmpty).mapM
    parseStatement

end Sys2Proof.Machine
end

