-- ==== Sys2Proof/Machine/Pipeline.lean ====
section
/-! DEFINITION. The host pipeline around the block: running a program, its named failures, Compress and Decompress, the
tags, and the source and sink (spec/44_host_pipeline.md R165 to R169, R178 to R180; spec/00_scope.md R7, R19). Host
software, not the block. -/

namespace Sys2Proof.Machine

/-- The state in which the host holds the program `p` (R19). -/
def State.withProgram (s : State) (p : List HostStep) : State := { s with pending := p }

/-- The run of a program (R19, R232): as many steps as the list has, which "ends when the list is exhausted". -/
def runProgram (p : List HostStep) (s : State) : Result :=
  Host.Core.run Sys2Proof.core p.length (s.withProgram p)

/-! ### Named failures -/

/-- How a pipeline fails: "all failures propagate to the caller as a distinct, named condition" (R169). -/
inductive Failure where
  /-- A host condition of R169: classes (1), (2) and (4). -/
  | condition (c : HostCondition)
  /-- A fault of the block under its own name, with EINFO: ERR_WALK, which is class (3), and the four that R169 keeps out of
  the source's classes. ERR_FORMAT is not among them: it is class (2) (log entry 17). -/
  | blockFault (c : Cause) (info : Nat)
  /-- The model's own. The block's step stopped (log entry 6), or ERR holds a code that R190 never writes; no run of a
  pipeline ends so. -/
  | unreachable
  deriving DecidableEq, Repr

/-- The failure that a fault of the block is to the pipeline's caller (R166, R169). -/
def Cause.failure (info : Nat) : Cause → Failure
  | .format => .condition .formatError
  | .illegal => .blockFault .illegal info
  | .len => .blockFault .len info
  | .ovf => .blockFault .ovf info
  | .noCode => .blockFault .noCode info
  | .walk => .blockFault .walk info

/-- The failure a final state records in ERR and EINFO. -/
def State.failure (s : State) : Failure :=
  match Cause.ofCode s.err with
  | some c => c.failure s.einfo
  | none => .unreachable

/-- The end of a run: its state if the run is good (R19), else the failure. -/
def endOfRun : Result → Except Failure State
  | .next t => if t.err = 0#8 then .ok t else .error t.failure
  | .fault _ => .error .unreachable
  | .refused _ => .error .unreachable

/-! ### Compress and Decompress -/

/-- The cipher part of Compress and Decompress: the key's bytes and its length, if the cipher is requested. An empty key is
the keyless mode (R165, R166). -/
def keySteps : Option (List Byte) → List HostStep
  | none => []
  | some k => (Statement.key k).steps

/-- A command that is issued only if the cipher is requested. -/
def ifCiphered (cipher : Option (List Byte)) (i : Instr) : List HostStep :=
  match cipher with
  | none => []
  | some _ => [commandStep i]

/-- Which digests the caller of Compress wants: each is an option of its own (R165). -/
structure Digests where
  plain : Bool
  packed : Bool
  deriving DecidableEq, Repr

/-- A command that is issued only if its digest is wanted. -/
def ifHashed (wanted : Bool) (i : Instr) : List HostStep := if wanted then [commandStep i] else []

/-- Compress (R165) on the bytes `x`: reset, buffer, key, digest of the plaintext, cipher, ENCODE, packed digest. -/
def compressProgram (x : List Byte) (cipher : Option (List Byte)) (h : Digests) : List HostStep :=
  [commandStep .rst] ++ (Statement.ibuf x).steps ++ keySteps cipher ++ ifHashed h.plain (.hash .input) ++
    ifCiphered cipher (.ciphf .input) ++ Pseudo.encode.expand.map commandStep ++ ifHashed h.packed (.hash .output)

/-- The outputs of Compress (R165). A digest is there if it was wanted. -/
structure Compressed where
  payload : List Byte
  text : Text
  plainDigest : Option (BitVec 64)
  packedDigest : Option (BitVec 64)
  deriving DecidableEq, Repr

/-- The packed payload, the table's text and the digests in the state Compress leaves (R90, R165). -/
def State.compressed (h : Digests) (s : State) : Compressed where
  payload := s.obuf.bytes s.olen
  text := tableToText s.nsym s.table
  plainDigest := if h.plain then some s.hash0 else none
  packedDigest := if h.packed then some s.hash1 else none

/-- Which decoder Decompress uses (R133, R166). -/
inductive Strategy where
  | trie
  | map
  deriving DecidableEq, Repr

/-- The build and decode commands of a strategy (R88). -/
def Strategy.commands : Strategy → List Instr
  | .trie => Pseudo.decodet.expand
  | .map => Pseudo.decodem.expand

/-- Writing the table that `TextToTable` returned: NSYM and the Code of every present Symbol; RST has cleared the others
(R166, R223). -/
def loadTableSteps (t : TableImage) : List HostStep :=
  registerStep .nsym t.nsym ::
    (List.range 256).flatMap fun s => if 0 < t.table.len s then codeSteps s (t.table.codeOf s) else []

/-- Decompress (R166) on the packed payload and the table that `TextToTable` returned. -/
def decompressProgram (t : TableImage) (payload : List Byte) (cipher : Option (List Byte)) (d : Strategy) :
    List HostStep :=
  [commandStep .rst] ++ loadTableSteps t ++ (Statement.ibuf payload).steps ++ keySteps cipher ++
    d.commands.map commandStep ++ ifCiphered cipher (.ciphi .output)

/-- The output of Decompress: the valid bytes of OBUF (R166). -/
def State.decompressed (s : State) : List Byte := s.obuf.bytes s.olen

/-- Compress as a function on the block's state (R165, R169). -/
def compress (s : State) (x : List Byte) (cipher : Option (List Byte)) (h : Digests) : Except Failure Compressed :=
  (endOfRun (runProgram (compressProgram x cipher h) s)).map (State.compressed h)

/-- Decompress as a function on the block's state: FORMAT_ERROR from the text, the failure a faulting command leaves, or the
bytes (R166, R169). -/
def decompress (s : State) (text : Text) (payload : List Byte) (cipher : Option (List Byte)) (d : Strategy) :
    Except Failure (List Byte) :=
  match textToTable s.cfg.lenW text with
  | .error c => .error (.condition c)
  | .ok t => (endOfRun (runProgram (decompressProgram t payload cipher d) s)).map State.decompressed

/-! ### Tags -/

/-- The sender and the receiver tag, an "optional pair of short strings" (R178). -/
structure Tags where
  sender : List Byte
  receiver : List Byte
  deriving DecidableEq, Repr

/-- Neither tag is non-empty: nothing is prepended and nothing re-validated (R178). -/
def Tags.absent (t : Tags) : Bool := t.sender.isEmpty && t.receiver.isEmpty

/-- What a decoded sequence holds: its tags and the payload behind them. -/
structure Tagged where
  tags : Tags
  payload : List Byte
  deriving DecidableEq, Repr

/-- How tags stand in front of a payload. The framing is not in the source and the spec does not choose one (R180), so it is
an argument of the pipeline: the bytes it puts before the payload, and how it takes tags off the front again (log entry
14). -/
structure Framing where
  header : Tags → List Byte
  split : List Byte → Tagged

/-- The framing takes off the front what it put there, whatever the payload. -/
def Framing.recovers (fr : Framing) (t : Tags) : Prop := ∀ x, fr.split (fr.header t ++ x) = ⟨t, x⟩

/-- The byte sequence X of R165: the tags, if non-empty, followed by the payload (R178). -/
def prependTags (fr : Framing) (t : Tags) (x : List Byte) : List Byte :=
  if t.absent then x else fr.header t ++ x

/-- The re-validation after decoding (R179): the tags are taken off the front and each is compared byte for byte with the tag
the host expects. -/
def checkTags (fr : Framing) (expected : Tags) (output : List Byte) : Except HostCondition (List Byte) :=
  if expected.absent then .ok output
  else
    let t := fr.split output
    if t.tags = expected then .ok t.payload else .error .validationMismatch

/-- The sender's pipeline: the tags are prepended before the cipher (R165, R178). -/
def send (s : State) (fr : Framing) (t : Tags) (x : List Byte) (cipher : Option (List Byte)) (h : Digests) :
    Except Failure Compressed :=
  compress s (prependTags fr t x) cipher h

/-- The receiver's pipeline: the tags are re-validated after the inverse cipher, and "a mismatch is a hard stop" (R166, R178,
R179). -/
def receive (s : State) (fr : Framing) (expected : Tags) (text : Text) (payload : List Byte)
    (cipher : Option (List Byte)) (d : Strategy) : Except Failure (List Byte) :=
  match decompress s text payload cipher d with
  | .error f => .error f
  | .ok out =>
    match checkTags fr expected out with
    | .error c => .error (.condition c)
    | .ok x => .ok x

/-! ### Source and sink -/

/-- What the host's file access gives (R7, R169 class 1): nothing for an unreadable source, "surfaced immediately". -/
def readSource {α : Type} : Option α → Except Failure α
  | some x => .ok x
  | none => .error (.condition .ioError)

/-- Output handed to the sink, nothing of it for an unwritable destination (R169 class 1). -/
def writeSink {α : Type} (writable : Bool) (x : α) : Except Failure α :=
  if writable then .ok x else .error (.condition .ioError)

/-- The sender's pipeline between a source and a sink (R7). -/
def sendFile (s : State) (fr : Framing) (t : Tags) (source : Option (List Byte)) (cipher : Option (List Byte))
    (h : Digests) (writable : Bool) : Except Failure Compressed :=
  ((readSource source).bind fun x => send s fr t x cipher h).bind (writeSink writable)

/-- The receiver's pipeline between the stored table with its packed payload and a sink (R7, R90). -/
def receiveFile (s : State) (fr : Framing) (expected : Tags) (source : Option (Text × List Byte))
    (cipher : Option (List Byte)) (d : Strategy) (writable : Bool) : Except Failure (List Byte) :=
  ((readSource source).bind fun (text, payload) => receive s fr expected text payload cipher d).bind
    (writeSink writable)

end Sys2Proof.Machine
end

