-- ==== Sys2Proof/Safety.lean ====
section
/-! DEFINITION. What a good state is (spec/00_scope.md R19) and the invariant of every reachable state
(spec/10_state.md R42, R50; spec/00_scope.md R11), in the terms the claims use. -/

namespace Sys2Proof.Machine

/-- "A run is good when it ends with `x[ERR] = 0`" (R19). -/
def State.good (s : State) : Prop := s.err = 0#8

/-- The index a tree node's edge leads to: `false` is the left edge "0", `true` the right edge "1" (R92). -/
def treeChild (t : Sparse TreeNode) (n : Nat) (b : Bool) : Nat :=
  if b then (nodeAt t n).right.toNat else (nodeAt t n).left.toNat

/-- Entry `n` is a node of the current tree. -/
def treeValid (t : Sparse TreeNode) (n : Nat) : Bool := (nodeAt t n).valid

/-- The node a path of edges leads to from node `n`, if every edge is there (R92). -/
def treeFollow (t : Sparse TreeNode) : Nat → BitString → Option Nat
  | n, [] => if treeValid t n then some n else none
  | n, b :: p => if treeValid t n && (nodeAt t n).tag then treeFollow t (treeChild t n b) p else none

/-- The trie entry a bit-string leads to from entry `n`, if every edge is there (R43, R92). -/
def trieFollow (t : Sparse TrieNode) : Nat → BitString → Option Nat
  | n, [] => some n
  | n, b :: p =>
    let c := (trieAt t n).child b
    if c = 0xFFFF#16 then none else trieFollow t c.toNat p

/-- The Symbol of the marked entry a bit-string leads to from the root (R127). -/
def trieFind (t : Sparse TrieNode) (c : BitString) : Option Symbol :=
  match trieFollow t 0 c with
  | some n => if (trieAt t n).leaf then some (trieAt t n).sym else none
  | none => none

/-- LEN_W-bit registers and elements are below `2 ^ LEN_W`, and so on by their widths (R11, R21). -/
structure State.WidthsOk (s : State) : Prop where
  einfo : s.einfo < 2 ^ s.cfg.lenW
  ilen : s.ilen < 2 ^ s.cfg.lenW
  olen : s.olen < 2 ^ s.cfg.lenW
  nsym : s.nsym < 2 ^ s.cfg.lenW
  wpl : s.wpl < 2 ^ (s.cfg.lenW + 16)
  freq : ∀ i, Sparse.get 0 s.freq i < 2 ^ s.cfg.lenW
  node : ∀ i, (nodeAt s.node i).freq < 2 ^ (s.cfg.lenW + 8)

/-- Every memory is in its canonical form and lists indices inside its space only (R60). -/
structure State.Canonical (s : State) : Prop where
  ibuf : s.ibuf.wf = true ∧ s.ibuf.within s.cfg.bufBytes = true
  obuf : s.obuf.wf = true ∧ s.obuf.within s.cfg.bufBytes = true
  key : s.key.wf = true ∧ s.key.within s.cfg.keyBytes = true
  freq : Sparse.wf 0 256 s.freq = true
  clen : Sparse.wf 0#8 256 s.table.clen = true
  cbits : Sparse.wf 0#8 8192 s.table.cbits = true
  node : Sparse.wf TreeNode.cleared 511 s.node = true
  trie : Sparse.wf TrieNode.cleared s.cfg.trieNodes s.trie = true
  map : Sparse.rising s.map = true

/-- The invariants of R50 (those on STATUS follow from its definition, R22). -/
structure State.RegistersOk (s : State) : Prop where
  olen : s.olen ≤ s.cfg.bufBytes
  root : s.root = 0x1FF#9 ∨ treeValid s.node s.root.toNat = true
  nleaf : s.nleaf.toNat ≤ 256
  tcnt : s.tcnt.toNat ≤ 65281
  mcnt : s.mcnt.toNat ≤ 256
  estop : s.status.getLsbD 1 = true ↔ s.err ≠ 0#8
  einfo : s.err = 0#8 → s.einfo = 0
  links : ∀ i b, (trieAt s.trie i).child b = 0xFFFF#16 ∨ (trieAt s.trie i).child b < s.tcnt
  unused : ∀ i, s.tcnt.toNat ≤ i → trieAt s.trie i = TrieNode.cleared

/-- The arena holds trees (R41, R42): leaves at their Symbol's index, Internal nodes above them with two valid children
created earlier, no node the child of two edges, and ROOT the empty tree's NIL or a node. -/
structure State.TreeOk (s : State) : Prop where
  leaf : ∀ i, i < 256 → treeValid s.node i = true → (nodeAt s.node i).tag = false ∧ (nodeAt s.node i).sym.toNat = i
  inner : ∀ i, 256 ≤ i → treeValid s.node i = true → i ≤ 510 ∧ (nodeAt s.node i).tag = true ∧
    ∀ b, treeChild s.node i b < i ∧ treeValid s.node (treeChild s.node i b) = true
  owner : ∀ i j a b, 256 ≤ i → 256 ≤ j → treeValid s.node i = true → treeValid s.node j = true →
    treeChild s.node i a = treeChild s.node j b → i = j ∧ a = b
  root : s.root = 0x1FF#9 ∨ treeValid s.node s.root.toNat = true

/-- The three byte memories hold different draws, all of them made already (R49, R197): no draw stands for two bytes. -/
structure State.DrawsOk (s : State) : Prop where
  made : s.ibuf.draw < s.draws ∧ s.obuf.draw < s.draws ∧ s.key.draw < s.draws
  apart : s.ibuf.draw ≠ s.obuf.draw ∧ s.ibuf.draw ≠ s.key.draw ∧ s.obuf.draw ≠ s.key.draw

/-- The invariant of every reachable state of a block whose parameters are within R10's constraints. -/
structure State.Inv (s : State) : Prop where
  config : s.cfg.wellFormed = true
  widths : s.WidthsOk
  canonical : s.Canonical
  registers : s.RegistersOk
  tree : s.TreeOk
  draws : s.DrawsOk

end Sys2Proof.Machine
end

