-- ==== Sys2Proof/Certificates/Slice0/Obligations.lean ====
section
/-! DEFINITION. The statements for the provers, each a formalisation of rules of spec/, and the few words they are said
in. -/

namespace Sys2Proof.Claims

open Sys2Proof.Machine

/-- The seventeen legal words of R82 and their commands. -/
def commandWords : List (CmdWord × Instr) :=
  [ (0x0000#16, .nop), (0x0100#16, .rst), (0x0200#16, .swap),
    (0x1000#16, .ciphf .input), (0x1001#16, .ciphf .output),
    (0x1100#16, .ciphi .input), (0x1101#16, .ciphi .output),
    (0x1800#16, .hash .input), (0x1801#16, .hash .output),
    (0x2000#16, .fcnt), (0x2100#16, .tbld), (0x2200#16, .cgen), (0x2300#16, .pack),
    (0x3000#16, .trie), (0x3100#16, .dect), (0x3200#16, .mapb), (0x3300#16, .decm) ]

/-- The fourteen opcodes of R82. -/
def listedOpcodes : List (BitVec 8) :=
  [0x00#8, 0x01#8, 0x02#8, 0x10#8, 0x11#8, 0x18#8, 0x20#8, 0x21#8, 0x22#8, 0x23#8, 0x30#8, 0x31#8, 0x32#8, 0x33#8]

/-- The state a fault with this code and info leaves, for a command that does not write OBUF (R196). -/
def faulted (s : State) (code : BitVec 8) (info : Nat) : State :=
  { s with err := code, einfo := info % 2 ^ s.cfg.lenW }

/-- The state a fault of PACK, DECT or DECM leaves (R196, R197): in addition OLEN is 0 and every byte of OBUF reads as a
value of a draw that no earlier byte had. -/
def outputFaulted (s : State) (code : BitVec 8) (info : Nat) : State :=
  { s with err := code, einfo := info % 2 ^ s.cfg.lenW, olen := 0, obuf := ⟨s.draws, []⟩, draws := s.draws + 1 }

/-- The elements `HostWrite` can change (R60, R62): ILEN, NSYM and KLEN of REG, and IBUF, KEY, FREQ, CLEN, CBITS whole. -/
def hostWritable (c : Config) (space i : Nat) : Bool :=
  (space == 0 && (i == 4 || i == 6 || i == 7)) || (space == 1 && decide (i < c.bufBytes)) ||
  (space == 3 && decide (i < c.keyBytes)) || (space == 4 && decide (i < 256)) || (space == 5 && decide (i < 256)) ||
  (space == 6 && decide (i < 8192))

/-- The width in bits of a host-writable element (R21, R60). -/
def elementWidth (c : Config) (space i : Nat) : Nat :=
  if space == 4 || (space == 0 && i != 7) then c.lenW else if space == 0 then 16 else 8

/-- The number of elements of each space (R60), 0 for a space that does not exist. -/
def spaceSize (c : Config) (space : Nat) : Nat :=
  [16, c.bufBytes, c.bufBytes, c.keyBytes, 256, 256, 8192, 511, c.trieNodes].getD space 0

/-- Node `a` is lower than node `b` (R102). -/
def lowerThan (t : Sparse TreeNode) (a b : Nat) : Prop :=
  (nodeAt t a).freq < (nodeAt t b).freq ∨
    ((nodeAt t a).freq = (nodeAt t b).freq ∧ (nodeAt t a).key.toNat < (nodeAt t b).key.toNat)

/-- The queue at the moment Internal node `n` is made, read off the finished arena: the nodes made before `n` that are no
child of a node made before `n` (R104). -/
def queued (t : Sparse TreeNode) (n i : Nat) : Prop :=
  treeValid t i = true ∧ i < n ∧ ∀ m b, 256 ≤ m → m < n → treeChild t m b ≠ i

/-- `a` is the lowest node of those that satisfy `Q` (R102). -/
def lowestOf (t : Sparse TreeNode) (Q : Nat → Prop) (a : Nat) : Prop :=
  Q a ∧ ∀ j, Q j → j ≠ a → lowerThan t a j

/-- `sym` is the greatest Symbol whose Code is `c` (R121, R126). -/
def lastWithCode (t : CodeTable) (c : BitString) (sym : Symbol) : Prop :=
  0 < t.len sym.toNat ∧ t.codeOf sym.toNat = c ∧
    ∀ u : Symbol, 0 < t.len u.toNat → t.codeOf u.toNat = c → u.toNat ≤ sym.toNat

/-- `c` is a Code, with the Symbol `sym`, at which a decoder that looks Codes up with `find` emits: none of its proper
prefixes is one (R125). -/
def isWord (find : BitString → Option Symbol) (c : BitString) (sym : Symbol) : Prop :=
  c ≠ [] ∧ find c = some sym ∧ ∀ k, 0 < k → k < c.length → find (c.take k) = none

/-- No Code begins these bits: nothing more is ever emitted (R128, R195). -/
def noWord (find : BitString → Option Symbol) (bits : BitString) : Prop :=
  ∀ k, 0 < k → k ≤ bits.length → find (bits.take k) = none

/-- The commands `is` in order, each answering a next state, lead from `s` to `t`. -/
def runs : List Instr → State → State → Prop
  | [], s, t => s = t
  | i :: is, s, t => ∃ u, exec i s = .next u ∧ runs is u t

/-- What DecodePre needs for the walk to begin (R123). -/
def decodable (s : State) : Prop :=
  s.err = 0#8 ∧ s.cfg.wellFormed = true ∧ 0 < s.nsym ∧ s.ilen ≤ s.cfg.bufBytes ∧ s.nsym ≤ 8 * s.ilen ∧
    s.nsym ≤ s.cfg.bufBytes

end Sys2Proof.Claims

open Sys2Proof Sys2Proof.Machine Sys2Proof.Claims

/-! ### Encoding -/

/-- R82, R81: a word decodes to a command exactly when it is one of the seventeen words of the opcode map, and no two rows
of the map match one word. -/
def Obligations.DecodeIsTheOpcodeMap : Prop :=
  (∀ (w : CmdWord) (i : Instr), decode w = .ok i ↔ (w, i) ∈ commandWords) ∧
  ∀ w : CmdWord, (opcodeMap.filter fun r => r.selects w).length ≤ 1

/-- R82 to R84: the encoder's word of every command is the one word that decodes to it, so every other word is illegal. -/
def Obligations.DecodeEncodeAgree : Prop :=
  (∀ i : Instr, i.wellFormed = true → decode (encode i) = .ok i) ∧
  ∀ (w : CmdWord) (i : Instr), decode w = .ok i → w = encode i

/-- R84: the illegal words are those of an unlisted opcode, those of a listed opcode with one of bits 7:1 set, and those
with bit 0 set and an opcode other than 0x10, 0x11, 0x18. -/
def Obligations.IllegalWordsAreTheThreeKinds : Prop :=
  ∀ w : CmdWord, (∃ r, decode w = .error r) ↔
    opcField w ∉ listedOpcodes ∨ (opcField w ∈ listedOpcodes ∧ zeroField w ≠ 0#7) ∨
      (w.getLsbD 0 = true ∧ opcField w ∉ [0x10#8, 0x11#8, 0x18#8])

/-- R80, R82: a few words written out from the opcode map. -/
def Obligations.SampleWordsDecode : Prop :=
  decode 0b0000000000000000#16 = .ok .nop ∧ decode 0b0000001000000000#16 = .ok .swap ∧
  decode 0b0001000000000001#16 = .ok (.ciphf .output) ∧ decode 0b0001100000000000#16 = .ok (.hash .input) ∧
  decode 0b0010000100000000#16 = .ok .tbld ∧ decode 0b0011001100000000#16 = .ok .decm

/-! ### Steps, illegal words, error-stop, the host port -/

/-- R64, R81: when the host's next step hands over a word that decodes to a command, the step is exec of that command, at the
state whose pending list has lost that one step. -/
def Obligations.StepRunsTheDecodedCommand : Prop :=
  ∀ (s : State) (w : CmdWord) (rest : List HostStep) (i : Instr),
    s.pending = .cmd w :: rest → decode w = .ok i → step s = exec i { s with pending := rest }

/-- R85: an illegal word raises ERR_ILLEGAL with the word as info and changes nothing else; in error-stop it is dropped. -/
def Obligations.IllegalWordRaises : Prop :=
  ∀ (s : State) (w : CmdWord) (rest : List HostStep) (r : Reject),
    s.pending = .cmd w :: rest → decode w = .error r →
      (s.err = 0#8 → step s = .next (faulted { s with pending := rest } 1#8 w.toNat)) ∧
      (s.err ≠ 0#8 → step s = .next { s with pending := rest })

/-- R198: in error-stop every word but 0x0100 is dropped, and host reads and writes still work. -/
def Obligations.ErrorStopDropsCommands : Prop :=
  ∀ (s : State) (rest : List HostStep), s.err ≠ 0#8 →
    (∀ w : CmdWord, w ≠ 0x0100#16 → s.pending = .cmd w :: rest → step s = .next { s with pending := rest }) ∧
    (∀ sp i v, s.pending = .write sp i v :: rest →
      step s = .next (State.hostWrite { s with pending := rest } sp i v)) ∧
    ∀ sp i, s.pending = .read sp i :: rest →
      step s = .next { s with pending := rest, replies := s.replies ++ [s.hostRead sp i] }

/-- R23, R198, R200: once ERR is not 0, ERR, EINFO and CCNT keep their values over every step but RST and hardware reset,
and those two clear them. -/
def Obligations.FaultIsSticky : Prop :=
  ∀ s t : State, s.err ≠ 0#8 → step s = .next t →
    ((∀ rest, s.pending ≠ .cmd 0x0100#16 :: rest ∧ s.pending ≠ .hardwareReset :: rest) →
      t.err = s.err ∧ t.einfo = s.einfo ∧ t.ccnt = s.ccnt) ∧
    (∀ rest, s.pending = .cmd 0x0100#16 :: rest ∨ s.pending = .hardwareReset :: rest →
      t.err = 0#8 ∧ t.einfo = 0 ∧ t.ccnt = 0#32)

/-- The model's choice (log entry 7), from R204 ("between commands it is idle and keeps all state"): with no host step
pending a step changes nothing. -/
def Obligations.IdleBlockKeepsItsState : Prop :=
  ∀ s : State, s.pending = [] → step s = .next s

/-- R62: a host write is one step, taken in error-stop too; to a host-writable element it gives that element the value
truncated to its width and changes no other element of any space and nothing else; any other host write changes nothing. -/
def Obligations.HostWriteChangesOneElement : Prop :=
  ∀ (s : State) (sp i v : Nat),
    (∀ rest, s.pending = .write sp i v :: rest →
      step s = .next (State.hostWrite { s with pending := rest } sp i v)) ∧
    (hostWritable s.cfg sp i = true →
      (s.hostWrite sp i v).hostRead sp i = v % 2 ^ elementWidth s.cfg sp i ∧
      (∀ sp' i', ¬ (sp' = sp ∧ i' = i) → (s.hostWrite sp i v).hostRead sp' i' = s.hostRead sp' i') ∧
      s.hostWrite sp i v = { s with
        ilen := (s.hostWrite sp i v).ilen, nsym := (s.hostWrite sp i v).nsym, klen := (s.hostWrite sp i v).klen,
        ibuf := (s.hostWrite sp i v).ibuf, key := (s.hostWrite sp i v).key, freq := (s.hostWrite sp i v).freq,
        table := (s.hostWrite sp i v).table }) ∧
    (hostWritable s.cfg sp i = false → s.hostWrite sp i v = s)

/-- R63: a host read changes nothing of the block and hands one value to the host: the register of that index of R21, or the
element of that space of R60 (NODE and TRIE have a statement of their own); outside a space, and in a space that does not
exist, that value is 0. -/
def Obligations.HostReadChangesNothing : Prop :=
  ∀ (s : State) (sp i : Nat) (rest : List HostStep),
    (s.pending = .read sp i :: rest →
      step s = .next { s with pending := rest, replies := s.replies ++ [s.hostRead sp i] }) ∧
    (spaceSize s.cfg sp ≤ i → s.hostRead sp i = 0) ∧
    (i < 16 → s.hostRead 0 i =
      [if s.err = 0#8 then 0 else 2, s.err.toNat, s.einfo, s.ccnt.toNat, s.ilen, s.olen, s.nsym, s.klen.toNat,
        s.cfg.addK.toNat, s.wpl, s.root.toNat, s.nleaf.toNat, s.tcnt.toNat, s.mcnt.toNat, s.hash0.toNat,
        s.hash1.toNat].getD i 0) ∧
    (i < s.cfg.bufBytes → s.hostRead 1 i = (s.ibuf.read i).toNat ∧ s.hostRead 2 i = (s.obuf.read i).toNat) ∧
    (i < s.cfg.keyBytes → s.hostRead 3 i = (s.key.read i).toNat) ∧
    (i < 256 → s.hostRead 4 i = Sparse.get 0 s.freq i ∧ s.hostRead 5 i = s.table.len i) ∧
    (i < 256 → ∀ j, j < 32 → s.hostRead 6 (32 * i + j) < 256 ∧
      ∀ k, k < 8 → (s.hostRead 6 (32 * i + j)).testBit (7 - k) = s.table.bit i (8 * j + k))

/-- R65: the layout of NODE and TRIE elements as a host read returns them. -/
def Obligations.StructuredElementLayout : Prop :=
  ∀ (s : State) (i : Nat),
    (i < 511 → (nodeAt s.node i).freq < 2 ^ (s.cfg.lenW + 8) →
      s.hostRead 7 i = (BitVec.ofBool (nodeAt s.node i).valid ++ BitVec.ofBool (nodeAt s.node i).tag ++
          (nodeAt s.node i).sym ++ (nodeAt s.node i).key ++ (nodeAt s.node i).left ++
          (nodeAt s.node i).right).toNat * 2 ^ (s.cfg.lenW + 8) + (nodeAt s.node i).freq) ∧
    (i < s.cfg.trieNodes →
      s.hostRead 8 i = (BitVec.ofBool (trieAt s.trie i).leaf ++ (trieAt s.trie i).sym ++ (trieAt s.trie i).ch1 ++
          (trieAt s.trie i).ch0).toNat)

/-- R22, R29: STATUS as the host reads it is a function of ERR, with ESTOP in bit 1 and every other bit 0; CADD reads ADD_K. -/
def Obligations.StatusIsAFunctionOfErr : Prop :=
  ∀ s : State, s.hostRead 0 0 = (if s.err = 0#8 then 0 else 2) ∧ s.hostRead 0 8 = s.cfg.addK.toNat

/-! ### Faults and retirement, over all commands -/

/-- R196, R197: a command that faults changes ERR and EINFO and nothing else, not CCNT either; PACK, DECT and DECM besides
set OLEN to 0 and leave OBUF a new draw. -/
def Obligations.FaultsArePrecise : Prop :=
  ∀ (i : Instr) (s t : State), s.err = 0#8 → exec i s = .next t → t.err ≠ 0#8 →
    if i = .pack ∨ i = .dect ∨ i = .decm then t = outputFaulted s t.err t.einfo ∧ t.einfo < 2 ^ s.cfg.lenW
    else t = faulted s t.err t.einfo ∧ t.einfo < 2 ^ s.cfg.lenW

/-- R190: which command raises which code. -/
def Obligations.FaultCodesByCommand : Prop :=
  ∀ (i : Instr) (s t : State), s.err = 0#8 → exec i s = .next t →
    t.err = 0#8 ∨
    (t.err = 2#8 ∧ i ∉ [.nop, .rst, .tbld, .cgen, .trie, .mapb] ∧
      (i = .hash .output → s.cfg.bufBytes < s.olen)) ∨
    (t.err = 3#8 ∧ i ∈ [.dect, .decm]) ∨ (t.err = 4#8 ∧ i ∈ [.pack, .dect, .decm]) ∨
    (t.err = 5#8 ∧ i = .pack) ∨ (t.err = 6#8 ∧ i ∈ [.dect, .decm])

/-- R30, R199: a command other than RST that does not fault adds 1 to CCNT modulo 2^32, and leaves ERR and EINFO as they
were; in error-stop such a command changes no state. -/
def Obligations.RetiringCountsOne : Prop :=
  ∀ (i : Instr) (s t : State), i ≠ .rst → exec i s = .next t →
    (s.err = 0#8 → t.err = 0#8 → t.ccnt = s.ccnt + 1#32 ∧ t.einfo = s.einfo) ∧ (s.err ≠ 0#8 → t = s)

/-- R77, R37: what each command may write. No command writes KEY; no command touches what the host holds. -/
def Obligations.CommandsWriteOnlyWhatIsListed : Prop :=
  ∀ (i : Instr) (s t : State), exec i s = .next t →
    (t.cfg = s.cfg ∧ t.key = s.key ∧ t.pending = s.pending ∧ t.replies = s.replies) ∧
    (i ∉ [.rst, .swap] → t.ilen = s.ilen) ∧
    (i ∉ [.rst, .swap, .pack, .dect, .decm] → t.olen = s.olen) ∧
    (i ∉ [.rst, .fcnt] → t.nsym = s.nsym ∧ t.freq = s.freq) ∧
    (i ≠ .rst → t.klen = s.klen) ∧
    (i ∉ [.rst, .cgen] → t.wpl = s.wpl ∧ t.table = s.table) ∧
    (i ∉ [.rst, .tbld] → t.root = s.root ∧ t.nleaf = s.nleaf ∧ t.node = s.node) ∧
    (i ∉ [.rst, .trie] → t.tcnt = s.tcnt ∧ t.trie = s.trie) ∧
    (i ∉ [.rst, .mapb] → t.mcnt = s.mcnt ∧ t.map = s.map) ∧
    (i ∉ [.rst, .hash .input] → t.hash0 = s.hash0) ∧
    (i ∉ [.rst, .hash .output] → t.hash1 = s.hash1) ∧
    (i ∉ [.swap, .ciphf .input, .ciphi .input] → t.ibuf = s.ibuf) ∧
    (i ∉ [.swap, .ciphf .output, .ciphi .output, .pack, .dect, .decm] → t.obuf = s.obuf)

/-! ### Control commands and reset -/

/-- R155: NOP does nothing but count; in error-stop it does not count either. -/
def Obligations.NopOnlyCounts : Prop :=
  ∀ s : State, (s.err = 0#8 → exec .nop s = .next { s with ccnt := s.ccnt + 1#32 }) ∧
    (s.err ≠ 0#8 → exec .nop s = .next s)

/-- R156, R49: RST, in error-stop too, gives every register and table its reset value, keeps the bytes of IBUF, OBUF and KEY,
and leaves CCNT at 0; it is the only command that executes in error-stop; its word is exactly 0x0100, and 0x0101 is illegal and
in error-stop dropped. -/
def Obligations.RstClearsAllButTheByteMemories : Prop :=
  (∀ s : State, exec .rst s = .next { s with
    err := 0#8, einfo := 0, ccnt := 0#32, ilen := 0, olen := 0, nsym := 0, klen := 0#16, wpl := 0, root := 0x1FF#9,
    nleaf := 0#9, tcnt := 0#16, mcnt := 0#9, hash0 := 0#64, hash1 := 0#64, freq := [], table := ⟨[], []⟩, node := [],
    trie := [], map := [] }) ∧
  (∀ (i : Instr) (s t : State), s.err ≠ 0#8 → i ≠ .rst → exec i s = .next t → t = s) ∧
  (∀ w : CmdWord, decode w = .ok .rst ↔ w = 0x0100#16) ∧ (∃ r, decode 0x0101#16 = .error r) ∧
  (∀ (s : State) (rest : List HostStep), s.err ≠ 0#8 → s.pending = .cmd 0x0101#16 :: rest →
    step s = .next { s with pending := rest })

/-- R49: the value of every register and every element after reset, for every choice of the parameters; MAP is empty, and
the bytes of IBUF, OBUF and KEY are unspecified (free values, log entry 1) and not changed by RST. -/
def Obligations.ResetValues : Prop :=
  ∀ (c : Config) (d : Nat),
    (∀ i, i < 16 → (State.afterReset c d).hostRead 0 i =
      if i = 8 then c.addK.toNat else if i = 10 then 0x1FF else 0) ∧
    (∀ i, (State.afterReset c d).hostRead 4 i = 0 ∧ (State.afterReset c d).hostRead 5 i = 0 ∧
      (State.afterReset c d).hostRead 6 i = 0) ∧
    (∀ i, nodeAt (State.afterReset c d).node i = ⟨false, false, 0#8, 0#8, 0, 0x1FF#9, 0x1FF#9⟩ ∧
      trieAt (State.afterReset c d).trie i = ⟨0xFFFF#16, 0xFFFF#16, false, 0#8⟩) ∧
    (∀ b : BitString, mapFind (State.afterReset c d).map b = none) ∧
    (∀ i, (State.afterReset c d).ibuf.read i = Config.freeByte d i ∧
      (State.afterReset c d).obuf.read i = Config.freeByte (d + 1) i ∧
      (State.afterReset c d).key.read i = Config.freeByte (d + 2) i) ∧
    ∀ s t : State, exec .rst s = .next t → t.ibuf = s.ibuf ∧ t.obuf = s.obuf ∧ t.key = s.key

/-- R220: hardware reset gives the registers and tables the same values, and every byte of IBUF, OBUF and KEY an unspecified
one (a value of a new draw). As an input of the model it is log entry 8. -/
def Obligations.HardwareResetState : Prop :=
  ∀ (s : State) (rest : List HostStep), s.pending = .hardwareReset :: rest →
    step s = .next { s with
      pending := rest, err := 0#8, einfo := 0, ccnt := 0#32, ilen := 0, olen := 0, nsym := 0, klen := 0#16, wpl := 0,
      root := 0x1FF#9, nleaf := 0#9, tcnt := 0#16, mcnt := 0#9, hash0 := 0#64, hash1 := 0#64, freq := [],
      table := ⟨[], []⟩, node := [], trie := [], map := [],
      ibuf := ⟨s.draws, []⟩, obuf := ⟨s.draws + 1, []⟩, key := ⟨s.draws + 2, []⟩, draws := s.draws + 3 }

/-- R158: SWAP exchanges IBUF and OBUF whole and ILEN with OLEN, or raises ERR_LEN; SWAP twice restores both. -/
def Obligations.SwapExchangesTheBuffers : Prop :=
  ∀ s : State, s.err = 0#8 →
    (s.cfg.bufBytes < s.ilen → exec .swap s = .next (faulted s 2#8 s.ilen)) ∧
    (s.ilen ≤ s.cfg.bufBytes → exec .swap s = .next { s with
      ibuf := s.obuf, obuf := s.ibuf, ilen := s.olen, olen := s.ilen, ccnt := s.ccnt + 1#32 }) ∧
    (s.ilen ≤ s.cfg.bufBytes → s.olen ≤ s.cfg.bufBytes →
      runs [.swap, .swap] s { s with ccnt := s.ccnt + 2#32 })

/-! ### Hash and cipher -/

/-- R140: HASH b completes with the digest in HASH0 or HASH1 and changes nothing else, or raises ERR_LEN. -/
def Obligations.HashWritesTheDigest : Prop :=
  ∀ (s : State) (b : BufSel), s.err = 0#8 →
    (s.cfg.bufBytes < s.len b → exec (.hash b) s = .next (faulted s 2#8 (s.len b))) ∧
    (s.len b ≤ s.cfg.bufBytes →
      let h := ((List.range (s.len b)).map fun i => (s.buf b).read i).foldl
        (fun (h : BitVec 64) v => (h ^^^ v.setWidth 64) * s.cfg.hashMult) s.cfg.hashInit
      exec (.hash b) s = .next (match b with
        | .input => { s with hash0 := h, ccnt := s.ccnt + 1#32 }
        | .output => { s with hash1 := h, ccnt := s.ccnt + 1#32 }))

/-- R142: for inputs of equal length that differ in exactly one byte the two digests differ, the multiplier being odd. -/
def Obligations.HashSeesOneChangedByte : Prop :=
  ∀ (s u s' u' : State) (k : Nat), s.err = 0#8 → u.err = 0#8 → s.cfg = u.cfg → s.cfg.wellFormed = true →
    s.ilen = u.ilen → s.ilen ≤ s.cfg.bufBytes → k < s.ilen → s.ibuf.read k ≠ u.ibuf.read k →
    (∀ i, i < s.ilen → i ≠ k → s.ibuf.read i = u.ibuf.read i) →
    exec (.hash .input) s = .next s' → exec (.hash .input) u = .next u' → s'.hash0 ≠ u'.hash0

/-- R144: CIPHF b completes; each valid byte has ADD_K added (keyless) or is XORed with the repeating key (keyed); bytes past
the length, the lengths, KEY and everything else stay. Its faults check the buffer length before the key length. -/
def Obligations.CiphfTransformsInPlace : Prop :=
  ∀ (s : State) (b : BufSel), s.err = 0#8 →
    (s.cfg.bufBytes < s.len b → exec (.ciphf b) s = .next (faulted s 2#8 (s.len b))) ∧
    (s.len b ≤ s.cfg.bufBytes → s.cfg.keyBytes < s.klen.toNat →
      exec (.ciphf b) s = .next (faulted s 2#8 s.klen.toNat)) ∧
    (s.len b ≤ s.cfg.bufBytes → s.klen.toNat ≤ s.cfg.keyBytes → ∃ t, exec (.ciphf b) s = .next t ∧
      (∀ i, i < s.len b → (t.buf b).read i =
        if s.klen = 0#16 then (s.buf b).read i + s.cfg.addK
        else (s.buf b).read i ^^^ s.key.read (i % s.klen.toNat)) ∧
      (∀ i, s.len b ≤ i → (t.buf b).read i = (s.buf b).read i) ∧
      t = match b with
        | .input => { s with ibuf := t.ibuf, ccnt := s.ccnt + 1#32 }
        | .output => { s with obuf := t.obuf, ccnt := s.ccnt + 1#32 })

/-- R145: CIPHI b, with ADD_K subtracted in the keyless mode. -/
def Obligations.CiphiTransformsInPlace : Prop :=
  ∀ (s : State) (b : BufSel), s.err = 0#8 →
    (s.cfg.bufBytes < s.len b → exec (.ciphi b) s = .next (faulted s 2#8 (s.len b))) ∧
    (s.len b ≤ s.cfg.bufBytes → s.cfg.keyBytes < s.klen.toNat →
      exec (.ciphi b) s = .next (faulted s 2#8 s.klen.toNat)) ∧
    (s.len b ≤ s.cfg.bufBytes → s.klen.toNat ≤ s.cfg.keyBytes → ∃ t, exec (.ciphi b) s = .next t ∧
      (∀ i, i < s.len b → (t.buf b).read i =
        if s.klen = 0#16 then (s.buf b).read i - s.cfg.addK
        else (s.buf b).read i ^^^ s.key.read (i % s.klen.toNat)) ∧
      (∀ i, s.len b ≤ i → (t.buf b).read i = (s.buf b).read i) ∧
      t = match b with
        | .input => { s with ibuf := t.ibuf, ccnt := s.ccnt + 1#32 }
        | .output => { s with obuf := t.obuf, ccnt := s.ccnt + 1#32 })

/-- R146: the forward cipher followed by the inverse, and the inverse followed by the forward, restore every byte. -/
def Obligations.CipherInverseLaw : Prop :=
  ∀ (s : State) (b : BufSel), s.err = 0#8 → s.len b ≤ s.cfg.bufBytes → s.klen.toNat ≤ s.cfg.keyBytes →
    (∃ t, runs [.ciphf b, .ciphi b] s t ∧ t.err = 0#8 ∧ ∀ i, (t.buf b).read i = (s.buf b).read i) ∧
    (∃ t, runs [.ciphi b, .ciphf b] s t ∧ t.err = 0#8 ∧ ∀ i, (t.buf b).read i = (s.buf b).read i)

/-- R147: CIPHF twice restores the bytes in the keyed mode always, and in the keyless mode, on a buffer that is not empty,
exactly when ADD_K is 0 or 128. -/
def Obligations.LiteralInvolution : Prop :=
  ∀ (s : State) (b : BufSel), s.err = 0#8 → 0 < s.len b → s.len b ≤ s.cfg.bufBytes → s.klen.toNat ≤ s.cfg.keyBytes →
    ∃ t, runs [.ciphf b, .ciphf b] s t ∧ t.err = 0#8 ∧
      ((∀ i, (t.buf b).read i = (s.buf b).read i) ↔
        s.klen ≠ 0#16 ∨ s.cfg.addK = 0#8 ∨ s.cfg.addK = 128#8)

/-! ### Encoder -/

/-- R100: FCNT completes with every counter the number of its byte's occurrences in the input and NSYM the input's length,
and changes nothing else, or raises ERR_LEN. -/
def Obligations.FcntCountsTheInput : Prop :=
  ∀ s : State, s.err = 0#8 → s.cfg.wellFormed = true →
    (s.cfg.bufBytes < s.ilen → exec .fcnt s = .next (faulted s 2#8 s.ilen)) ∧
    (s.ilen ≤ s.cfg.bufBytes → ∃ t, exec .fcnt s = .next t ∧
      (∀ b : Symbol, Sparse.get 0 t.freq b.toNat = ((List.range s.ilen).map s.ibuf.read).count b) ∧
      t = { s with freq := t.freq, nsym := s.ilen, ccnt := s.ccnt + 1#32 })

/-- R101: after FCNT the frequencies sum to NSYM and to ILEN, and are positive exactly for the bytes that occur. -/
def Obligations.FrequenciesSumToLength : Prop :=
  ∀ s t : State, s.err = 0#8 → s.cfg.wellFormed = true → s.ilen ≤ s.cfg.bufBytes → exec .fcnt s = .next t →
    ((List.range 256).map fun i => Sparse.get 0 t.freq i).sum = t.nsym ∧ t.nsym = t.ilen ∧
      ∀ b : Symbol, 0 < Sparse.get 0 t.freq b.toNat ↔ ∃ i, i < t.ilen ∧ t.ibuf.read i = b

/-- R42, R104: TBLD completes from every content of FREQ and leaves an arena with one Leaf for each Symbol of positive
frequency, Internal nodes that sum their children, each node but the root owned by one edge, and the root and the leaf
count R104 gives; nothing else changes. -/
def Obligations.TbldBuildsTheArena : Prop :=
  ∀ s : State, s.err = 0#8 → s.cfg.wellFormed = true → (∀ i, i < 256 → Sparse.get 0 s.freq i < 2 ^ s.cfg.lenW) →
    ∃ t, exec .tbld s = .next t ∧
      t = { s with node := t.node, root := t.root, nleaf := t.nleaf, ccnt := s.ccnt + 1#32 } ∧
      (∀ i, i < 256 → (treeValid t.node i = true ↔ 0 < Sparse.get 0 s.freq i)) ∧
      (∀ i, i < 256 → treeValid t.node i = true → nodeAt t.node i =
        ⟨true, false, BitVec.ofNat 8 i, BitVec.ofNat 8 i, Sparse.get 0 s.freq i, 0x1FF#9, 0x1FF#9⟩) ∧
      (∀ n, 256 ≤ n → treeValid t.node n = true → (nodeAt t.node n).tag = true ∧ (nodeAt t.node n).sym = 0#8 ∧
        (nodeAt t.node n).freq =
          (nodeAt t.node (treeChild t.node n false)).freq + (nodeAt t.node (treeChild t.node n true)).freq) ∧
      (∀ n, treeValid t.node n = true → n ≠ t.root.toNat →
        ∃! e : Nat × Bool, treeValid t.node e.1 = true ∧ (nodeAt t.node e.1).tag = true ∧
          treeChild t.node e.1 e.2 = n) ∧
      (let l := ((List.range 256).filter fun i => decide (0 < Sparse.get 0 s.freq i)).length
       t.nleaf.toNat = l ∧
       (l = 0 → t.root = 0x1FF#9 ∧ ∀ n, treeValid t.node n = false) ∧
       (l = 1 → t.root.toNat < 256 ∧ ∀ n, treeValid t.node n = true ↔ n = t.root.toNat) ∧
       (2 ≤ l → t.root.toNat = 256 + l - 2 ∧ ∀ n, 256 ≤ n → (treeValid t.node n = true ↔ n ≤ 256 + l - 2)))

/-- R102 to R104: every Internal node TBLD makes joins the lowest node then in the queue, as the left child, with the lowest
of the rest, as the right child, and its key is the smaller of theirs. -/
def Obligations.TbldMergesTheLowestTwo : Prop :=
  ∀ s t : State, s.err = 0#8 → s.cfg.wellFormed = true → (∀ i, i < 256 → Sparse.get 0 s.freq i < 2 ^ s.cfg.lenW) →
    exec .tbld s = .next t → ∀ n, 256 ≤ n → treeValid t.node n = true →
      lowestOf t.node (queued t.node n) (treeChild t.node n false) ∧
      lowestOf t.node (fun i => queued t.node n i ∧ i ≠ treeChild t.node n false) (treeChild t.node n true) ∧
      (nodeAt t.node n).key.toNat = min (nodeAt t.node (treeChild t.node n false)).key.toNat
        (nodeAt t.node (treeChild t.node n true)).key.toNat

/-- R105: TBLD's result depends only on FREQ (and on the block's parameters). -/
def Obligations.TbldDependsOnFreqAlone : Prop :=
  ∀ s u s' u' : State, s.err = 0#8 → u.err = 0#8 → s.cfg = u.cfg → s.freq = u.freq →
    exec .tbld s = .next s' → exec .tbld u = .next u' → s'.node = u'.node ∧ s'.root = u'.root ∧ s'.nleaf = u'.nleaf

/-- R106, R107: CGEN completes on every arena that holds trees; the Code of a Symbol is the path from ROOT to its Leaf, the
sole Leaf has the Code "0", the empty tree gives an empty table, bits past a Code are 0, WPL is the sum of frequency times
Code length in its width, and nothing else changes. -/
def Obligations.CgenWritesTheRootToLeafPaths : Prop :=
  ∀ s : State, s.err = 0#8 → s.TreeOk → ∃ t, exec .cgen s = .next t ∧
    t = { s with table := t.table, wpl := t.wpl, ccnt := s.ccnt + 1#32 } ∧
    (s.root = 0x1FF#9 → ∀ c : Symbol, t.table.len c.toNat = 0) ∧
    (s.root.toNat < 256 → ∀ c : Symbol,
      t.table.codeOf c.toNat = if c.toNat = s.root.toNat then [false] else []) ∧
    (256 ≤ s.root.toNat → s.root ≠ 0x1FF#9 → ∀ (c : Symbol) (p : BitString),
      (0 < t.table.len c.toNat ∧ t.table.codeOf c.toNat = p) ↔
        treeFollow s.node s.root.toNat p = some c.toNat) ∧
    (∀ (c : Symbol) (k : Nat), t.table.len c.toNat ≤ k → k < 256 → t.table.bit c.toNat k = false) ∧
    t.wpl = ((List.range 256).map fun c => (nodeAt s.node c).freq * t.table.len c).sum % 2 ^ (s.cfg.lenW + 16)

/-- R106: where the arena holds no tree, which no reachable state has, CGEN answers a next state or the fault notATree and
nothing else; no other command ever stops. The fault is the model's choice (log entry 6). -/
def Obligations.OnlyCgenCanStop : Prop :=
  ∀ (i : Instr) (s : State), (∃ t, exec i s = .next t) ∨ (i = .cgen ∧ exec i s = .fault .notATree ∧ ¬ s.TreeOk)

/-- R109: the table TBLD and CGEN make has a Code exactly for the Symbols of positive frequency, is prefix-free, is complete
when it has two or more Codes, and has zero bits beyond every Code. -/
def Obligations.GeneratedTableIsPrefixFree : Prop :=
  ∀ s : State, s.err = 0#8 → s.cfg.wellFormed = true → (∀ i, i < 256 → Sparse.get 0 s.freq i < 2 ^ s.cfg.lenW) →
    ∃ t, runs [.tbld, .cgen] s t ∧ t.err = 0#8 ∧
      (∀ i, i < 256 → (0 < t.table.len i ↔ 0 < Sparse.get 0 s.freq i)) ∧
      (∀ i j, i < 256 → j < 256 → i ≠ j → 0 < t.table.len i → 0 < t.table.len j →
        ¬ t.table.codeOf i <+: t.table.codeOf j) ∧
      (2 ≤ t.nleaf.toNat → ∀ f : Nat → Bool, ∃! i, i < 256 ∧ 0 < t.table.len i ∧
        t.table.codeOf i = (List.range (t.table.len i)).map f) ∧
      (t.nleaf.toNat = 1 → ∀ i, 0 < t.table.len i → t.table.codeOf i = [false]) ∧
      (∀ i k, i < 256 → t.table.len i ≤ k → k < 256 → t.table.bit i k = false)

/-- R108: after FCNT, TBLD and CGEN, WPL is the sum over the Symbols of frequency times Code length, and equals the total
number of code bits of the input. -/
def Obligations.WplIsTheTotalOfCodeBits : Prop :=
  ∀ s : State, s.err = 0#8 → s.cfg.wellFormed = true → s.ilen ≤ s.cfg.bufBytes →
    ∃ t, runs [.fcnt, .tbld, .cgen] s t ∧ t.err = 0#8 ∧
      t.wpl = ((List.range 256).map fun c => Sparse.get 0 t.freq c * t.table.len c).sum ∧
      t.wpl = ((List.range t.ilen).map fun i => t.table.len (t.ibuf.read i).toNat).sum

/-- The bound of R111, which R111 marks as general knowledge and not the source's: with a table made from the same input, no
more than 8 code bits a byte, so that PACK's output is no longer than its input. -/
def Obligations.HuffmanStreamIsNoLongerThanTheInput : Prop :=
  ∀ s : State, s.err = 0#8 → s.cfg.wellFormed = true → s.ilen ≤ s.cfg.bufBytes →
    ∃ t, runs [.fcnt, .tbld, .cgen] s t ∧ t.err = 0#8 ∧ t.wpl ≤ 8 * s.ilen

/-- R89, R110: PACK completes when the lengths fit and every input byte has a Code; OBUF holds the concatenation of the
Codes, MSB first, zero-padded to a whole byte, OLEN is its length, later bytes and everything else stay. -/
def Obligations.PackWritesThePackedStream : Prop :=
  ∀ s : State, s.err = 0#8 → s.cfg.wellFormed = true → s.ilen ≤ s.cfg.bufBytes →
    (∀ i, i < s.ilen → 0 < s.table.len (s.ibuf.read i).toNat) →
    let S := (List.range s.ilen).flatMap fun i => s.table.codeOf (s.ibuf.read i).toNat
    (S.length + 7) / 8 ≤ s.cfg.bufBytes → ∃ t, exec .pack s = .next t ∧
      t.olen = (S.length + 7) / 8 ∧
      (∀ p, p < S.length → S[p]? = some (streamBit t.obuf p)) ∧
      (∀ p, S.length ≤ p → p < 8 * t.olen → streamBit t.obuf p = false) ∧
      (∀ i, t.olen ≤ i → t.obuf.read i = s.obuf.read i) ∧
      t = { s with obuf := t.obuf, olen := t.olen, ccnt := s.ccnt + 1#32 }

/-- R191, R193, R194, R201: the faults of PACK in their order: ILEN over capacity, then the first byte without a Code, then
an output that does not fit. -/
def Obligations.PackFaultsInOrder : Prop :=
  ∀ s : State, s.err = 0#8 →
    (s.cfg.bufBytes < s.ilen → exec .pack s = .next (outputFaulted s 2#8 s.ilen)) ∧
    (s.ilen ≤ s.cfg.bufBytes → ∀ k, k < s.ilen → s.table.len (s.ibuf.read k).toNat = 0 →
      (∀ i, i < k → 0 < s.table.len (s.ibuf.read i).toNat) → exec .pack s = .next (outputFaulted s 5#8 k)) ∧
    (s.ilen ≤ s.cfg.bufBytes → (∀ i, i < s.ilen → 0 < s.table.len (s.ibuf.read i).toNat) →
      let need := (((List.range s.ilen).map fun i => s.table.len (s.ibuf.read i).toNat).sum + 7) / 8
      s.cfg.bufBytes < need → exec .pack s = .next (outputFaulted s 4#8 need))

/-! ### The code table -/

/-- R40: `SetCode` then `CodeOf` gives the Code back, leaves every other Symbol's Code alone, and sets the bits beyond the
Code to 0. -/
def Obligations.SetCodeThenCodeOf : Prop :=
  ∀ (t : CodeTable) (s : Nat) (c : BitString), s < 256 → codeWellFormed c = true →
    (t.setCode s c).codeOf s = c ∧ (∀ u, u ≠ s → (t.setCode s c).codeOf u = t.codeOf u) ∧
      ∀ k, c.length ≤ k → k < 256 → (t.setCode s c).bit s k = false

/-! ### Decoder -/

/-- R121: TRIE completes from every table; the root is entry 0 and unmarked, a bit-string leads to a marked entry exactly when
it is a Code, the entry carries the greatest Symbol with that Code, every link is below TCNT, the entries from TCNT on are
cleared, and nothing else changes. -/
def Obligations.TrieHoldsTheCodes : Prop :=
  ∀ s : State, s.err = 0#8 → ∃ t, exec .trie s = .next t ∧
    t = { s with trie := t.trie, tcnt := t.tcnt, ccnt := s.ccnt + 1#32 } ∧
    (∀ (c : BitString) (sym : Symbol), trieFind t.trie c = some sym ↔ lastWithCode s.table c sym) ∧
    (1 ≤ t.tcnt.toNat ∧ t.tcnt.toNat ≤ 65281) ∧
    (∀ i b, (trieAt t.trie i).child b = 0xFFFF#16 ∨ (trieAt t.trie i).child b < t.tcnt) ∧
    (∀ i, t.tcnt.toNat ≤ i → trieAt t.trie i = TrieNode.cleared)

/-- R126: MAPB completes from every table; MAP's domain is the Codes, each with the greatest Symbol that has it, MCNT is the
number of entries, and nothing else changes. -/
def Obligations.MapHoldsTheCodes : Prop :=
  ∀ s : State, s.err = 0#8 → ∃ t, exec .mapb s = .next t ∧
    t = { s with map := t.map, mcnt := t.mcnt, ccnt := s.ccnt + 1#32 } ∧
    (∀ (c : BitString) (sym : Symbol), mapFind t.map c = some sym ↔ lastWithCode s.table c sym) ∧
    t.mcnt.toNat = (((List.range 256).filter fun i => decide (0 < s.table.len i)).map s.table.codeOf).dedup.length

/-- R127: TRIE and MAPB on one table hold the same information. -/
def Obligations.TrieAndMapAgree : Prop :=
  ∀ s t u : State, s.err = 0#8 → exec .trie s = .next t → exec .mapb s = .next u →
    ∀ c : BitString, trieFind t.trie c = mapFind u.map c

/-- R123: DECT and DECM first complete on a zero count whatever else holds, then check ILEN, the format and the capacity, in
this order. -/
def Obligations.DecodePreChecksInOrder : Prop :=
  ∀ (s : State) (i : Instr), s.err = 0#8 → i ∈ [Instr.dect, Instr.decm] →
    (s.nsym = 0 → exec i s = .next { s with olen := 0, ccnt := s.ccnt + 1#32 }) ∧
    (s.nsym ≠ 0 → s.cfg.bufBytes < s.ilen → exec i s = .next (outputFaulted s 2#8 s.ilen)) ∧
    (s.nsym ≠ 0 → s.ilen ≤ s.cfg.bufBytes → 8 * s.ilen < s.nsym →
      exec i s = .next (outputFaulted s 3#8 s.nsym)) ∧
    (s.nsym ≠ 0 → s.ilen ≤ s.cfg.bufBytes → s.nsym ≤ 8 * s.ilen → s.cfg.bufBytes < s.nsym →
      exec i s = .next (outputFaulted s 4#8 s.nsym))

/-- R124, R125: DECT completes when the stream begins with NSYM Codes of the trie; it emits their Symbols, reads no bit after
the last of them, and changes nothing else. -/
def Obligations.DectEmitsTheSymbols : Prop :=
  ∀ (s : State) (cs : List BitString) (out : List Symbol) (rest : BitString), decodable s →
    List.Forall₂ (isWord (trieFind s.trie)) cs out → out.length = s.nsym →
    streamBits s.ibuf s.ilen = cs.flatten ++ rest →
    ∃ t, exec .dect s = .next t ∧ t.olen = s.nsym ∧
      (∀ i, i < s.nsym → out[i]? = some (t.obuf.read i)) ∧
      (∀ i, s.nsym ≤ i → t.obuf.read i = s.obuf.read i) ∧
      t = { s with obuf := t.obuf, olen := t.olen, ccnt := s.ccnt + 1#32 }

/-- R129: DECM completes when the stream begins with NSYM Codes of the map, and does the same. -/
def Obligations.DecmEmitsTheSymbols : Prop :=
  ∀ (s : State) (cs : List BitString) (out : List Symbol) (rest : BitString), decodable s →
    List.Forall₂ (isWord (mapFind s.map)) cs out → out.length = s.nsym →
    streamBits s.ibuf s.ilen = cs.flatten ++ rest →
    ∃ t, exec .decm s = .next t ∧ t.olen = s.nsym ∧
      (∀ i, i < s.nsym → out[i]? = some (t.obuf.read i)) ∧
      (∀ i, s.nsym ≤ i → t.obuf.read i = s.obuf.read i) ∧
      t = { s with obuf := t.obuf, olen := t.olen, ccnt := s.ccnt + 1#32 }

/-- R195, R130: when after fewer than NSYM Codes no Code begins the rest of the stream, both decoders raise ERR_WALK with the
number of Symbols emitted. -/
def Obligations.DecodeWalkFails : Prop :=
  ∀ (s : State) (cs : List BitString) (out : List Symbol) (rest : BitString), decodable s → out.length < s.nsym →
    streamBits s.ibuf s.ilen = cs.flatten ++ rest →
    (List.Forall₂ (isWord (trieFind s.trie)) cs out → noWord (trieFind s.trie) rest →
      exec .dect s = .next (outputFaulted s 6#8 out.length)) ∧
    (List.Forall₂ (isWord (mapFind s.map)) cs out → noWord (mapFind s.map) rest →
      exec .decm s = .next (outputFaulted s 6#8 out.length))

/-- R120: the decoder commands read neither FREQ, NODE nor ROOT: with other contents there they do the same. -/
def Obligations.DecodersNeverReadTheEncoderTree : Prop :=
  ∀ (i : Instr) (s t : State) (f : Sparse Nat) (n : Sparse TreeNode) (r : BitVec 9),
    i ∈ [Instr.trie, Instr.dect, Instr.mapb, Instr.decm] → exec i s = .next t →
      exec i { s with freq := f, node := n, root := r } = .next { t with freq := f, node := n, root := r }

/-- R131: from one state, with any content of the table, NSYM, ILEN and IBUF, `TRIE; DECT` and `MAPB; DECM` both complete with
the same output or both fault with the same ERR and EINFO. -/
def Obligations.DecodersAreEquivalent : Prop :=
  ∀ s : State, s.err = 0#8 → ∃ t u, runs [.trie, .dect] s t ∧ runs [.mapb, .decm] s u ∧
    t.err = u.err ∧ t.einfo = u.einfo ∧ t.olen = u.olen ∧ ∀ i, i < t.olen → t.obuf.read i = u.obuf.read i

/-- R132: encoding, SWAP and decoding with either decoder complete without a fault and give the input back. That the packed
stream always fits OBUF is the bound of R111, a statement of its own. -/
def Obligations.RoundTripThroughEitherDecoder : Prop :=
  ∀ s : State, s.err = 0#8 → s.cfg.wellFormed = true → s.ilen ≤ s.cfg.bufBytes →
    ∀ d ∈ [[Instr.trie, Instr.dect], [Instr.mapb, Instr.decm]],
      ∃ t, runs ([.fcnt, .tbld, .cgen, .pack, .swap] ++ d) s t ∧
        t.err = 0#8 ∧ t.olen = s.ilen ∧ ∀ i, i < s.ilen → t.obuf.read i = s.ibuf.read i

/-- R122, R126: for a table made by TBLD and CGEN from two or more leaves the trie is isomorphic to the encoding tree: the same
bit-strings lead from the root to a node, marked exactly where the tree has a Leaf and with that Leaf's Symbol. It has `2 × NLEAF - 1` nodes
where there are two or more leaves, two nodes for one leaf, one for none; a marked node has no child and, with two or more
leaves, an unmarked one in use has both; MAP has NLEAF entries. -/
def Obligations.TrieMirrorsTheEncodingTree : Prop :=
  ∀ s : State, s.err = 0#8 → s.cfg.wellFormed = true → (∀ i, i < 256 → Sparse.get 0 s.freq i < 2 ^ s.cfg.lenW) →
    ∃ t, runs [.tbld, .cgen, .trie, .mapb] s t ∧ t.err = 0#8 ∧ t.mcnt = t.nleaf ∧
      (2 ≤ t.nleaf.toNat → ∀ p : BitString,
        ((treeFollow t.node t.root.toNat p).isSome = (trieFollow t.trie 0 p).isSome) ∧
        ∀ n m, treeFollow t.node t.root.toNat p = some n → trieFollow t.trie 0 p = some m →
          (trieAt t.trie m).leaf = !(nodeAt t.node n).tag ∧
            ((trieAt t.trie m).leaf = true → (trieAt t.trie m).sym = (nodeAt t.node n).sym)) ∧
      t.tcnt.toNat = (if t.nleaf = 0#9 then 1 else if t.nleaf = 1#9 then 2 else 2 * t.nleaf.toNat - 1) ∧
      (t.nleaf = 1#9 → (trieAt t.trie 0).child true = 0xFFFF#16 ∧ (trieAt t.trie 0).child false ≠ 0xFFFF#16) ∧
      ∀ i b, i < t.tcnt.toNat →
        ((trieAt t.trie i).leaf = true → (trieAt t.trie i).child b = 0xFFFF#16) ∧
        (2 ≤ t.nleaf.toNat → (trieAt t.trie i).leaf = false → (trieAt t.trie i).child b ≠ 0xFFFF#16)

/-! ### Host software -/

/-- R87: running the steps of `.ibuf` puts the bytes into IBUF from index 0 and their count into ILEN. -/
def Obligations.IbufDirectiveLoadsTheBuffer : Prop :=
  ∀ (s : State) (bs : List Byte), s.cfg.wellFormed = true → bs.length ≤ s.cfg.bufBytes →
    ∃ t, runProgram (Statement.ibuf bs).steps s = .next t ∧ t.ilen = bs.length ∧
      (∀ i, i < bs.length → bs[i]? = some (t.ibuf.read i)) ∧
      (∀ i, bs.length ≤ i → t.ibuf.read i = s.ibuf.read i) ∧
      t = { s with ibuf := t.ibuf, ilen := t.ilen, pending := [] }

/-- R167, R174, R175: `TextToTable` gives back what `TableToText` wrote, for a table in canonical form whose bits beyond every
Code are 0, as CGEN writes it. -/
def Obligations.TextReaderInvertsTheWriter : Prop :=
  ∀ (lenW n : Nat) (t : CodeTable), n < 2 ^ lenW → Sparse.wf 0#8 256 t.clen = true →
    Sparse.wf 0#8 8192 t.cbits = true → (∀ s k, s < 256 → t.len s ≤ k → k < 256 → t.bit s k = false) →
    textToTable lenW (tableToText n t) = .ok ⟨n, t⟩

/-- R165 to R167, R178, R179: Decompress on the outputs of Compress, with the same cipher request and either decoder, on a
block with the same parameters, in whatever states the two blocks are before, gives the bytes back, and the digests wanted
are those of the plaintext and of the packed payload. With tags prepended, under any framing that takes off what it put on,
the receiver that expects these tags gets the payload, and one that expects others gets VALIDATION_MISMATCH. -/
def Obligations.EndToEndRoundTrip : Prop :=
  ∀ (s u : State) (cipher : Option (List Byte)) (h : Digests) (d : Strategy),
    s.cfg.wellFormed = true → u.cfg = s.cfg → (∀ k, cipher = some k → k.length ≤ s.cfg.keyBytes) →
    let digest := fun bs : List Byte =>
      bs.foldl (fun (a : BitVec 64) v => (a ^^^ v.setWidth 64) * s.cfg.hashMult) s.cfg.hashInit
    (∀ x : List Byte, x.length ≤ s.cfg.bufBytes →
      ∃ c, compress s x cipher h = .ok c ∧ decompress u c.text c.payload cipher d = .ok x ∧
        c.plainDigest = (if h.plain then some (digest x) else none) ∧
        c.packedDigest = (if h.packed then some (digest c.payload) else none)) ∧
    ∀ (fr : Framing) (t : Tags) (x : List Byte), t.absent = false → fr.recovers t →
      (fr.header t ++ x).length ≤ s.cfg.bufBytes →
      ∃ c, send s fr t x cipher h = .ok c ∧ receive u fr t c.text c.payload cipher d = .ok x ∧
        ∀ e : Tags, e.absent = false → e ≠ t →
          receive u fr e c.text c.payload cipher d = .error (.condition .validationMismatch)

/-- R166, R169: Decompress fails under a name: FORMAT_ERROR for a text the reader refuses and for a count no stream of that
many bytes can hold, ERR_OVF for a count over capacity (that it keeps the block's name is log entry 17), ERR_WALK for a table
without a Code. The walk's other failures are in the statement about the decoders. -/
def Obligations.DecompressFailsByName : Prop :=
  ∀ (u : State) (payload : List Byte) (cipher : Option (List Byte)) (d : Strategy),
    u.cfg.wellFormed = true → payload.length ≤ u.cfg.bufBytes → (∀ k, cipher = some k → k.length ≤ u.cfg.keyBytes) →
    (∀ text, textToTable u.cfg.lenW text = .error .formatError →
      decompress u text payload cipher d = .error (.condition .formatError)) ∧
    ∀ (n : Nat) (t : CodeTable), n < 2 ^ u.cfg.lenW → Sparse.wf 0#8 256 t.clen = true →
      Sparse.wf 0#8 8192 t.cbits = true → (∀ s k, s < 256 → t.len s ≤ k → k < 256 → t.bit s k = false) →
      (8 * payload.length < n →
        decompress u (tableToText n t) payload cipher d = .error (.condition .formatError)) ∧
      (n ≤ 8 * payload.length → u.cfg.bufBytes < n →
        decompress u (tableToText n t) payload cipher d = .error (.blockFault .ovf n)) ∧
      (0 < n → n ≤ 8 * payload.length → n ≤ u.cfg.bufBytes → (∀ s, s < 256 → t.len s = 0) →
        decompress u (tableToText n t) payload cipher d = .error (.blockFault .walk 0))

/-! ### Invariants -/

/-- The invariant holds after reset (R49, R50), for any parameters within R10's constraints. -/
def Obligations.ResetSatisfiesTheInvariant : Prop :=
  State.reset.Inv ∧ ∀ (c : Config) (d : Nat), c.wellFormed = true → (State.afterReset c d).Inv

/-- The memories stay in canonical form, inside their spaces (R60, log entries 1 and 5). -/
def Obligations.StepKeepsMemoriesCanonical : Prop :=
  ∀ s t : State, s.cfg.wellFormed = true → s.Canonical → step s = .next t → t.Canonical

/-- R50: the invariants of the registers, of TCNT and of the trie's links hold after every step from a state that satisfies the
model's invariant. -/
def Obligations.StepKeepsRegisterInvariants : Prop :=
  ∀ s t : State, s.Inv → step s = .next t → t.RegistersOk

/-- From every state that satisfies the invariant a step answers a next state, which satisfies it: the machine never stops, the
memories stay canonical, the arena stays a forest, and no register leaves its range. -/
def Obligations.InvariantStepNeverStops : Prop :=
  ∀ s : State, s.Inv → ∃ t, step s = .next t ∧ t.Inv
end

