-- ==== Sys2Proof/Laws/Sparse.lean ====
section
/-! SUPPORT. Sparse arrays and byte memories: a read after a write, the frame of a write, and the canonical form kept by
every operation. -/

namespace Sys2Proof.Machine

variable {α : Type}

@[simp] theorem Sparse.find?_nil (i : Nat) : Sparse.find? ([] : Sparse α) i = none := rfl

@[simp] theorem Sparse.get_nil (d : α) (i : Nat) : Sparse.get d ([] : Sparse α) i = d := rfl

theorem Sparse.find?_put (m : Sparse α) (i j : Nat) (v : α) :
    Sparse.find? (Sparse.put m i v) j = if j = i then some v else Sparse.find? m j := by
  induction m with
  | nil => simp [Sparse.put, Sparse.find?]
  | cons e m ih =>
    obtain ⟨k, u⟩ := e
    simp only [Sparse.put]
    split_ifs with h₁ h₂ <;> simp only [Sparse.find?, ih] <;> split_ifs <;> first | rfl | omega

theorem Sparse.find?_drop (m : Sparse α) (i j : Nat) :
    Sparse.find? (Sparse.drop m i) j = if j = i then none else Sparse.find? m j := by
  induction m with
  | nil => simp [Sparse.drop, Sparse.find?]
  | cons e m ih =>
    obtain ⟨k, u⟩ := e
    simp only [Sparse.drop]
    split_ifs with h₁ <;> simp only [Sparse.find?, ih] <;> split_ifs <;> first | rfl | omega

theorem Sparse.get_set [DecidableEq α] (d : α) (m : Sparse α) (i j : Nat) (v : α) :
    Sparse.get d (Sparse.set d m i v) j = if j = i then v else Sparse.get d m j := by
  unfold Sparse.get Sparse.set
  split_ifs with h₁ h₂ h₂ <;> simp [Sparse.find?_drop, Sparse.find?_put, h₁, h₂]

@[simp] theorem Sparse.get_set_same [DecidableEq α] (d : α) (m : Sparse α) (i : Nat) (v : α) :
    Sparse.get d (Sparse.set d m i v) i = v := by
  simp [Sparse.get_set]

theorem Sparse.get_set_other [DecidableEq α] (d : α) (m : Sparse α) {i j : Nat} (v : α) (h : j ≠ i) :
    Sparse.get d (Sparse.set d m i v) j = Sparse.get d m j := by
  simp [Sparse.get_set, h]

/-! ### The canonical form -/

/-- Rising indices, said of the head and the rest. -/
theorem Sparse.rising_cons (i : Nat) (v : α) (m : Sparse α) :
    Sparse.rising ((i, v) :: m) = true ↔ (∀ e ∈ m, i < e.1) ∧ Sparse.rising m = true := by
  induction m generalizing i v with
  | nil => simp [Sparse.rising]
  | cons e m ih =>
    obtain ⟨j, u⟩ := e
    simp only [Sparse.rising, Bool.and_eq_true, decide_eq_true_eq, List.mem_cons, forall_eq_or_imp]
    constructor
    · rintro ⟨hij, hr⟩
      exact ⟨⟨hij, fun e he => hij.trans (((ih j u).1 hr).1 e he)⟩, hr⟩
    · rintro ⟨⟨hij, _⟩, hr⟩
      exact ⟨hij, hr⟩

theorem Sparse.mem_put {m : Sparse α} {i : Nat} {v : α} {e : Nat × α} (h : e ∈ Sparse.put m i v) :
    e = (i, v) ∨ e ∈ m := by
  induction m with
  | nil => simpa [Sparse.put] using h
  | cons x m ih =>
    obtain ⟨k, u⟩ := x
    simp only [Sparse.put] at h
    split_ifs at h <;> simp only [List.mem_cons] at h ⊢ <;> tauto

theorem Sparse.mem_drop {m : Sparse α} {i : Nat} {e : Nat × α} (h : e ∈ Sparse.drop m i) : e ∈ m := by
  induction m with
  | nil => simp [Sparse.drop] at h
  | cons x m ih =>
    obtain ⟨k, u⟩ := x
    simp only [Sparse.drop] at h
    split_ifs at h <;> simp only [List.mem_cons] at h ⊢ <;> tauto

theorem Sparse.rising_put {m : Sparse α} (i : Nat) (v : α) (h : Sparse.rising m = true) :
    Sparse.rising (Sparse.put m i v) = true := by
  induction m with
  | nil => rfl
  | cons x m ih =>
    obtain ⟨k, u⟩ := x
    obtain ⟨hlt, hr⟩ := (Sparse.rising_cons k u m).1 h
    simp only [Sparse.put]
    split_ifs with h₁ h₂
    · refine (Sparse.rising_cons _ _ _).2 ⟨?_, h⟩
      intro e he
      rcases List.mem_cons.1 he with rfl | he
      · exact h₁
      · exact h₁.trans (hlt e he)
    · subst h₂
      exact (Sparse.rising_cons _ _ _).2 ⟨hlt, hr⟩
    · refine (Sparse.rising_cons _ _ _).2 ⟨?_, ih hr⟩
      intro e he
      rcases Sparse.mem_put he with rfl | he
      · show k < i
        omega
      · exact hlt e he

theorem Sparse.rising_drop {m : Sparse α} (i : Nat) (h : Sparse.rising m = true) :
    Sparse.rising (Sparse.drop m i) = true := by
  induction m with
  | nil => rfl
  | cons x m ih =>
    obtain ⟨k, u⟩ := x
    obtain ⟨hlt, hr⟩ := (Sparse.rising_cons k u m).1 h
    simp only [Sparse.drop]
    split_ifs
    · exact ih hr
    · exact (Sparse.rising_cons _ _ _).2 ⟨fun e he => hlt e (Sparse.mem_drop he), ih hr⟩

theorem Sparse.wf_iff [DecidableEq α] (d : α) (n : Nat) (m : Sparse α) :
    Sparse.wf d n m = true ↔ Sparse.rising m = true ∧ ∀ e ∈ m, e.1 < n ∧ e.2 ≠ d := by
  simp [Sparse.wf]

@[simp] theorem Sparse.wf_nil [DecidableEq α] (d : α) (n : Nat) : Sparse.wf d n ([] : Sparse α) = true := rfl

/-- A write inside the array keeps its canonical form. -/
theorem Sparse.wf_set [DecidableEq α] {d : α} {n : Nat} {m : Sparse α} {i : Nat} (v : α)
    (h : Sparse.wf d n m = true) (hi : i < n) : Sparse.wf d n (Sparse.set d m i v) = true := by
  rw [Sparse.wf_iff] at h ⊢
  obtain ⟨hr, he⟩ := h
  unfold Sparse.set
  split_ifs with hv
  · exact ⟨Sparse.rising_drop i hr, fun e h => he e (Sparse.mem_drop h)⟩
  · refine ⟨Sparse.rising_put i v hr, fun e h => ?_⟩
    rcases Sparse.mem_put h with rfl | h
    · exact ⟨hi, hv⟩
    · exact he e h

/-- In a rising list the head's index is not listed again. -/
theorem Sparse.find?_eq_none_of_lt {m : Sparse α} {i : Nat} (h : ∀ e ∈ m, i < e.1) : Sparse.find? m i = none := by
  induction m with
  | nil => rfl
  | cons x m ih =>
    obtain ⟨k, u⟩ := x
    have hk : i < k := h (k, u) (by simp)
    simp only [Sparse.find?]
    rw [if_neg (by omega)]
    exact ih fun e he => h e (by simp [he])

/-- Two rising lists that answer alike are the same list. -/
theorem Sparse.eq_of_find?_eq {m m' : Sparse α} (h : Sparse.rising m = true) (h' : Sparse.rising m' = true)
    (he : ∀ i, Sparse.find? m i = Sparse.find? m' i) : m = m' := by
  induction m generalizing m' with
  | nil =>
    cases m' with
    | nil => rfl
    | cons y m' => simpa [Sparse.find?] using he y.1
  | cons x m ih =>
    obtain ⟨i, v⟩ := x
    obtain ⟨hlt, hr⟩ := (Sparse.rising_cons i v m).1 h
    cases m' with
    | nil => simpa [Sparse.find?] using he i
    | cons y m' =>
      obtain ⟨j, u⟩ := y
      obtain ⟨hlt', hr'⟩ := (Sparse.rising_cons j u m').1 h'
      have hij : i = j := by
        rcases lt_trichotomy i j with hl | rfl | hl
        · have := he i
          rw [Sparse.find?_eq_none_of_lt (m := (j, u) :: m') fun e he => by
            rcases List.mem_cons.1 he with rfl | he
            · exact hl
            · exact hl.trans (hlt' e he)] at this
          simp [Sparse.find?] at this
        · rfl
        · have := he j
          rw [Sparse.find?_eq_none_of_lt (m := (i, v) :: m) fun e he => by
            rcases List.mem_cons.1 he with rfl | he
            · exact hl
            · exact hl.trans (hlt e he)] at this
          simp [Sparse.find?] at this
      subst hij
      have hv : v = u := by simpa [Sparse.find?] using he i
      subst hv
      congr 1
      refine ih hr hr' fun k => ?_
      by_cases hk : k = i
      · subst hk
        rw [Sparse.find?_eq_none_of_lt hlt, Sparse.find?_eq_none_of_lt hlt']
      · simpa [Sparse.find?, hk] using he k

/-- Equal arrays are equal data: two canonical arrays with the same elements are the same list. -/
theorem Sparse.eq_of_get_eq [DecidableEq α] {d : α} {n : Nat} {m m' : Sparse α} (h : Sparse.wf d n m = true)
    (h' : Sparse.wf d n m' = true) (he : ∀ i, Sparse.get d m i = Sparse.get d m' i) : m = m' := by
  have listed : ∀ {k : Sparse α} {i : Nat} {v : α}, Sparse.find? k i = some v → (i, v) ∈ k := by
    intro k i v hf
    induction k with
    | nil => simp at hf
    | cons x k ih =>
      obtain ⟨j, u⟩ := x
      simp only [Sparse.find?] at hf
      split_ifs at hf with hj
      · simp only [Option.some.injEq] at hf
        simp [hj, hf]
      · exact List.mem_cons_of_mem _ (ih hf)
  rw [Sparse.wf_iff] at h h'
  refine Sparse.eq_of_find?_eq h.1 h'.1 fun i => ?_
  have := he i
  unfold Sparse.get at this
  rcases hm : Sparse.find? m i with _ | v <;> rcases hm' : Sparse.find? m' i with _ | u <;>
    simp only [hm, hm', Option.getD_none, Option.getD_some] at this ⊢
  · exact absurd this.symm (h'.2 _ (listed hm')).2
  · exact absurd this (h.2 _ (listed hm)).2
  · rw [this]

/-! ### Byte memories -/

theorem Memory.read_write (m : Memory) (i j : Nat) (v : Byte) :
    (m.write i v).read j = if j = i then v else m.read j := by
  unfold Memory.read Memory.write
  rw [Sparse.find?_put]
  split_ifs <;> rfl

@[simp] theorem Memory.draw_write (m : Memory) (i : Nat) (v : Byte) : (m.write i v).draw = m.draw := rfl

@[simp] theorem Memory.draw_writeBytes (m : Memory) (i : Nat) (vs : List Byte) :
    (m.writeBytes i vs).draw = m.draw := by
  induction vs generalizing m i with
  | nil => rfl
  | cons v vs ih => simp [Memory.writeBytes, ih]

/-- What a sequence written from index `i` on reads as: its own bytes there, the old bytes elsewhere. -/
theorem Memory.read_writeBytes (m : Memory) (i j : Nat) (vs : List Byte) :
    (m.writeBytes i vs).read j = if i ≤ j then (vs[j - i]?).getD (m.read j) else m.read j := by
  induction vs generalizing m i with
  | nil => simp [Memory.writeBytes]
  | cons v vs ih =>
    rw [Memory.writeBytes, ih, Memory.read_write]
    rcases lt_trichotomy i j with h | rfl | h
    · rw [if_pos (show i + 1 ≤ j by omega), if_pos (show i ≤ j by omega), if_neg (show ¬ j = i by omega),
        show j - i = (j - (i + 1)) + 1 by omega, List.getElem?_cons_succ]
    · simp
    · rw [if_neg (show ¬ i + 1 ≤ j by omega), if_neg (show ¬ i ≤ j by omega), if_neg (show ¬ j = i by omega)]

theorem Memory.wf_write {m : Memory} (i : Nat) (v : Byte) (h : m.wf = true) : (m.write i v).wf = true :=
  Sparse.rising_put i v h

theorem Memory.wf_writeBytes {m : Memory} (i : Nat) (vs : List Byte) (h : m.wf = true) :
    (m.writeBytes i vs).wf = true := by
  induction vs generalizing m i with
  | nil => exact h
  | cons v vs ih => exact ih _ (Memory.wf_write i v h)

theorem Memory.within_write {m : Memory} {n : Nat} {i : Nat} (v : Byte) (h : m.within n = true) (hi : i < n) :
    (m.write i v).within n = true := by
  unfold Memory.within at h ⊢
  rw [List.all_eq_true] at h ⊢
  intro e he
  rcases Sparse.mem_put he with rfl | he
  · simpa using hi
  · exact h e he

theorem Memory.within_writeBytes {m : Memory} {n : Nat} (i : Nat) (vs : List Byte) (h : m.within n = true)
    (hi : i + vs.length ≤ n) : (m.writeBytes i vs).within n = true := by
  induction vs generalizing m i with
  | nil => exact h
  | cons v vs ih =>
    rw [List.length_cons] at hi
    exact ih _ (Memory.within_write v h (by omega)) (by omega)

@[simp] theorem Memory.length_bytes (m : Memory) (n : Nat) : (m.bytes n).length = n := by
  simp [Memory.bytes]

end Sys2Proof.Machine
end

