-- ==== Sys2Proof/Laws/State.lean ====
section
/-! SUPPORT. What each named update of State does to each field, by rfl, so that no proof unfolds a record update. -/

namespace Sys2Proof.Machine

variable (s : State) (r : Raised) (m : Memory) (h : BitVec 64) (b : BufSel) (w : CmdWord) (p : List HostStep)

/-! ### retire -/

@[simp] theorem State.cfg_retire : (s.retire).cfg = s.cfg := rfl
@[simp] theorem State.err_retire : (s.retire).err = s.err := rfl
@[simp] theorem State.einfo_retire : (s.retire).einfo = s.einfo := rfl
@[simp] theorem State.ccnt_retire : (s.retire).ccnt = s.ccnt + 1#32 := rfl
@[simp] theorem State.ilen_retire : (s.retire).ilen = s.ilen := rfl
@[simp] theorem State.olen_retire : (s.retire).olen = s.olen := rfl
@[simp] theorem State.nsym_retire : (s.retire).nsym = s.nsym := rfl
@[simp] theorem State.klen_retire : (s.retire).klen = s.klen := rfl
@[simp] theorem State.wpl_retire : (s.retire).wpl = s.wpl := rfl
@[simp] theorem State.root_retire : (s.retire).root = s.root := rfl
@[simp] theorem State.nleaf_retire : (s.retire).nleaf = s.nleaf := rfl
@[simp] theorem State.tcnt_retire : (s.retire).tcnt = s.tcnt := rfl
@[simp] theorem State.mcnt_retire : (s.retire).mcnt = s.mcnt := rfl
@[simp] theorem State.hash0_retire : (s.retire).hash0 = s.hash0 := rfl
@[simp] theorem State.hash1_retire : (s.retire).hash1 = s.hash1 := rfl
@[simp] theorem State.ibuf_retire : (s.retire).ibuf = s.ibuf := rfl
@[simp] theorem State.obuf_retire : (s.retire).obuf = s.obuf := rfl
@[simp] theorem State.key_retire : (s.retire).key = s.key := rfl
@[simp] theorem State.freq_retire : (s.retire).freq = s.freq := rfl
@[simp] theorem State.table_retire : (s.retire).table = s.table := rfl
@[simp] theorem State.node_retire : (s.retire).node = s.node := rfl
@[simp] theorem State.trie_retire : (s.retire).trie = s.trie := rfl
@[simp] theorem State.map_retire : (s.retire).map = s.map := rfl
@[simp] theorem State.pending_retire : (s.retire).pending = s.pending := rfl
@[simp] theorem State.replies_retire : (s.retire).replies = s.replies := rfl
@[simp] theorem State.draws_retire : (s.retire).draws = s.draws := rfl

/-! ### raise -/

@[simp] theorem State.cfg_raise : (s.raise r).cfg = s.cfg := rfl
@[simp] theorem State.err_raise : (s.raise r).err = r.cause.code := rfl
@[simp] theorem State.einfo_raise : (s.raise r).einfo = trunc s.cfg.lenW r.info := rfl
@[simp] theorem State.ccnt_raise : (s.raise r).ccnt = s.ccnt := rfl
@[simp] theorem State.ilen_raise : (s.raise r).ilen = s.ilen := rfl
@[simp] theorem State.olen_raise : (s.raise r).olen = s.olen := rfl
@[simp] theorem State.nsym_raise : (s.raise r).nsym = s.nsym := rfl
@[simp] theorem State.klen_raise : (s.raise r).klen = s.klen := rfl
@[simp] theorem State.wpl_raise : (s.raise r).wpl = s.wpl := rfl
@[simp] theorem State.root_raise : (s.raise r).root = s.root := rfl
@[simp] theorem State.nleaf_raise : (s.raise r).nleaf = s.nleaf := rfl
@[simp] theorem State.tcnt_raise : (s.raise r).tcnt = s.tcnt := rfl
@[simp] theorem State.mcnt_raise : (s.raise r).mcnt = s.mcnt := rfl
@[simp] theorem State.hash0_raise : (s.raise r).hash0 = s.hash0 := rfl
@[simp] theorem State.hash1_raise : (s.raise r).hash1 = s.hash1 := rfl
@[simp] theorem State.ibuf_raise : (s.raise r).ibuf = s.ibuf := rfl
@[simp] theorem State.obuf_raise : (s.raise r).obuf = s.obuf := rfl
@[simp] theorem State.key_raise : (s.raise r).key = s.key := rfl
@[simp] theorem State.freq_raise : (s.raise r).freq = s.freq := rfl
@[simp] theorem State.table_raise : (s.raise r).table = s.table := rfl
@[simp] theorem State.node_raise : (s.raise r).node = s.node := rfl
@[simp] theorem State.trie_raise : (s.raise r).trie = s.trie := rfl
@[simp] theorem State.map_raise : (s.raise r).map = s.map := rfl
@[simp] theorem State.pending_raise : (s.raise r).pending = s.pending := rfl
@[simp] theorem State.replies_raise : (s.raise r).replies = s.replies := rfl
@[simp] theorem State.draws_raise : (s.raise r).draws = s.draws := rfl

/-! ### loseOutput -/

@[simp] theorem State.cfg_loseOutput : (s.loseOutput).cfg = s.cfg := rfl
@[simp] theorem State.err_loseOutput : (s.loseOutput).err = s.err := rfl
@[simp] theorem State.einfo_loseOutput : (s.loseOutput).einfo = s.einfo := rfl
@[simp] theorem State.ccnt_loseOutput : (s.loseOutput).ccnt = s.ccnt := rfl
@[simp] theorem State.ilen_loseOutput : (s.loseOutput).ilen = s.ilen := rfl
@[simp] theorem State.olen_loseOutput : (s.loseOutput).olen = 0 := rfl
@[simp] theorem State.nsym_loseOutput : (s.loseOutput).nsym = s.nsym := rfl
@[simp] theorem State.klen_loseOutput : (s.loseOutput).klen = s.klen := rfl
@[simp] theorem State.wpl_loseOutput : (s.loseOutput).wpl = s.wpl := rfl
@[simp] theorem State.root_loseOutput : (s.loseOutput).root = s.root := rfl
@[simp] theorem State.nleaf_loseOutput : (s.loseOutput).nleaf = s.nleaf := rfl
@[simp] theorem State.tcnt_loseOutput : (s.loseOutput).tcnt = s.tcnt := rfl
@[simp] theorem State.mcnt_loseOutput : (s.loseOutput).mcnt = s.mcnt := rfl
@[simp] theorem State.hash0_loseOutput : (s.loseOutput).hash0 = s.hash0 := rfl
@[simp] theorem State.hash1_loseOutput : (s.loseOutput).hash1 = s.hash1 := rfl
@[simp] theorem State.ibuf_loseOutput : (s.loseOutput).ibuf = s.ibuf := rfl
@[simp] theorem State.obuf_loseOutput : (s.loseOutput).obuf = ⟨s.draws, []⟩ := rfl
@[simp] theorem State.key_loseOutput : (s.loseOutput).key = s.key := rfl
@[simp] theorem State.freq_loseOutput : (s.loseOutput).freq = s.freq := rfl
@[simp] theorem State.table_loseOutput : (s.loseOutput).table = s.table := rfl
@[simp] theorem State.node_loseOutput : (s.loseOutput).node = s.node := rfl
@[simp] theorem State.trie_loseOutput : (s.loseOutput).trie = s.trie := rfl
@[simp] theorem State.map_loseOutput : (s.loseOutput).map = s.map := rfl
@[simp] theorem State.pending_loseOutput : (s.loseOutput).pending = s.pending := rfl
@[simp] theorem State.replies_loseOutput : (s.loseOutput).replies = s.replies := rfl
@[simp] theorem State.draws_loseOutput : (s.loseOutput).draws = s.draws + 1 := rfl

/-! ### clearAll -/

@[simp] theorem State.cfg_clearAll : (s.clearAll).cfg = s.cfg := rfl
@[simp] theorem State.err_clearAll : (s.clearAll).err = 0#8 := rfl
@[simp] theorem State.einfo_clearAll : (s.clearAll).einfo = 0 := rfl
@[simp] theorem State.ccnt_clearAll : (s.clearAll).ccnt = 0#32 := rfl
@[simp] theorem State.ilen_clearAll : (s.clearAll).ilen = 0 := rfl
@[simp] theorem State.olen_clearAll : (s.clearAll).olen = 0 := rfl
@[simp] theorem State.nsym_clearAll : (s.clearAll).nsym = 0 := rfl
@[simp] theorem State.klen_clearAll : (s.clearAll).klen = 0#16 := rfl
@[simp] theorem State.wpl_clearAll : (s.clearAll).wpl = 0 := rfl
@[simp] theorem State.root_clearAll : (s.clearAll).root = 0x1FF#9 := rfl
@[simp] theorem State.nleaf_clearAll : (s.clearAll).nleaf = 0#9 := rfl
@[simp] theorem State.tcnt_clearAll : (s.clearAll).tcnt = 0#16 := rfl
@[simp] theorem State.mcnt_clearAll : (s.clearAll).mcnt = 0#9 := rfl
@[simp] theorem State.hash0_clearAll : (s.clearAll).hash0 = 0#64 := rfl
@[simp] theorem State.hash1_clearAll : (s.clearAll).hash1 = 0#64 := rfl
@[simp] theorem State.ibuf_clearAll : (s.clearAll).ibuf = s.ibuf := rfl
@[simp] theorem State.obuf_clearAll : (s.clearAll).obuf = s.obuf := rfl
@[simp] theorem State.key_clearAll : (s.clearAll).key = s.key := rfl
@[simp] theorem State.freq_clearAll : (s.clearAll).freq = [] := rfl
@[simp] theorem State.table_clearAll : (s.clearAll).table = CodeTable.empty := rfl
@[simp] theorem State.node_clearAll : (s.clearAll).node = [] := rfl
@[simp] theorem State.trie_clearAll : (s.clearAll).trie = [] := rfl
@[simp] theorem State.map_clearAll : (s.clearAll).map = [] := rfl
@[simp] theorem State.pending_clearAll : (s.clearAll).pending = s.pending := rfl
@[simp] theorem State.replies_clearAll : (s.clearAll).replies = s.replies := rfl
@[simp] theorem State.draws_clearAll : (s.clearAll).draws = s.draws := rfl

/-! ### hardwareReset -/

@[simp] theorem State.cfg_hardwareReset : (s.hardwareReset).cfg = s.cfg := rfl
@[simp] theorem State.err_hardwareReset : (s.hardwareReset).err = 0#8 := rfl
@[simp] theorem State.einfo_hardwareReset : (s.hardwareReset).einfo = 0 := rfl
@[simp] theorem State.ccnt_hardwareReset : (s.hardwareReset).ccnt = 0#32 := rfl
@[simp] theorem State.ilen_hardwareReset : (s.hardwareReset).ilen = 0 := rfl
@[simp] theorem State.olen_hardwareReset : (s.hardwareReset).olen = 0 := rfl
@[simp] theorem State.nsym_hardwareReset : (s.hardwareReset).nsym = 0 := rfl
@[simp] theorem State.klen_hardwareReset : (s.hardwareReset).klen = 0#16 := rfl
@[simp] theorem State.wpl_hardwareReset : (s.hardwareReset).wpl = 0 := rfl
@[simp] theorem State.root_hardwareReset : (s.hardwareReset).root = 0x1FF#9 := rfl
@[simp] theorem State.nleaf_hardwareReset : (s.hardwareReset).nleaf = 0#9 := rfl
@[simp] theorem State.tcnt_hardwareReset : (s.hardwareReset).tcnt = 0#16 := rfl
@[simp] theorem State.mcnt_hardwareReset : (s.hardwareReset).mcnt = 0#9 := rfl
@[simp] theorem State.hash0_hardwareReset : (s.hardwareReset).hash0 = 0#64 := rfl
@[simp] theorem State.hash1_hardwareReset : (s.hardwareReset).hash1 = 0#64 := rfl
@[simp] theorem State.ibuf_hardwareReset : (s.hardwareReset).ibuf = ⟨s.draws, []⟩ := rfl
@[simp] theorem State.obuf_hardwareReset : (s.hardwareReset).obuf = ⟨s.draws + 1, []⟩ := rfl
@[simp] theorem State.key_hardwareReset : (s.hardwareReset).key = ⟨s.draws + 2, []⟩ := rfl
@[simp] theorem State.freq_hardwareReset : (s.hardwareReset).freq = [] := rfl
@[simp] theorem State.table_hardwareReset : (s.hardwareReset).table = CodeTable.empty := rfl
@[simp] theorem State.node_hardwareReset : (s.hardwareReset).node = [] := rfl
@[simp] theorem State.trie_hardwareReset : (s.hardwareReset).trie = [] := rfl
@[simp] theorem State.map_hardwareReset : (s.hardwareReset).map = [] := rfl
@[simp] theorem State.pending_hardwareReset : (s.hardwareReset).pending = s.pending := rfl
@[simp] theorem State.replies_hardwareReset : (s.hardwareReset).replies = s.replies := rfl
@[simp] theorem State.draws_hardwareReset : (s.hardwareReset).draws = s.draws + 3 := rfl

/-! ### setBuf -/

@[simp] theorem State.cfg_setBuf : (s.setBuf m b).cfg = s.cfg := by cases b <;> rfl
@[simp] theorem State.err_setBuf : (s.setBuf m b).err = s.err := by cases b <;> rfl
@[simp] theorem State.einfo_setBuf : (s.setBuf m b).einfo = s.einfo := by cases b <;> rfl
@[simp] theorem State.ccnt_setBuf : (s.setBuf m b).ccnt = s.ccnt := by cases b <;> rfl
@[simp] theorem State.ilen_setBuf : (s.setBuf m b).ilen = s.ilen := by cases b <;> rfl
@[simp] theorem State.olen_setBuf : (s.setBuf m b).olen = s.olen := by cases b <;> rfl
@[simp] theorem State.nsym_setBuf : (s.setBuf m b).nsym = s.nsym := by cases b <;> rfl
@[simp] theorem State.klen_setBuf : (s.setBuf m b).klen = s.klen := by cases b <;> rfl
@[simp] theorem State.wpl_setBuf : (s.setBuf m b).wpl = s.wpl := by cases b <;> rfl
@[simp] theorem State.root_setBuf : (s.setBuf m b).root = s.root := by cases b <;> rfl
@[simp] theorem State.nleaf_setBuf : (s.setBuf m b).nleaf = s.nleaf := by cases b <;> rfl
@[simp] theorem State.tcnt_setBuf : (s.setBuf m b).tcnt = s.tcnt := by cases b <;> rfl
@[simp] theorem State.mcnt_setBuf : (s.setBuf m b).mcnt = s.mcnt := by cases b <;> rfl
@[simp] theorem State.hash0_setBuf : (s.setBuf m b).hash0 = s.hash0 := by cases b <;> rfl
@[simp] theorem State.hash1_setBuf : (s.setBuf m b).hash1 = s.hash1 := by cases b <;> rfl
@[simp] theorem State.key_setBuf : (s.setBuf m b).key = s.key := by cases b <;> rfl
@[simp] theorem State.freq_setBuf : (s.setBuf m b).freq = s.freq := by cases b <;> rfl
@[simp] theorem State.table_setBuf : (s.setBuf m b).table = s.table := by cases b <;> rfl
@[simp] theorem State.node_setBuf : (s.setBuf m b).node = s.node := by cases b <;> rfl
@[simp] theorem State.trie_setBuf : (s.setBuf m b).trie = s.trie := by cases b <;> rfl
@[simp] theorem State.map_setBuf : (s.setBuf m b).map = s.map := by cases b <;> rfl
@[simp] theorem State.pending_setBuf : (s.setBuf m b).pending = s.pending := by cases b <;> rfl
@[simp] theorem State.replies_setBuf : (s.setBuf m b).replies = s.replies := by cases b <;> rfl
@[simp] theorem State.draws_setBuf : (s.setBuf m b).draws = s.draws := by cases b <;> rfl

/-! ### setHash -/

@[simp] theorem State.cfg_setHash : (s.setHash h b).cfg = s.cfg := by cases b <;> rfl
@[simp] theorem State.err_setHash : (s.setHash h b).err = s.err := by cases b <;> rfl
@[simp] theorem State.einfo_setHash : (s.setHash h b).einfo = s.einfo := by cases b <;> rfl
@[simp] theorem State.ccnt_setHash : (s.setHash h b).ccnt = s.ccnt := by cases b <;> rfl
@[simp] theorem State.ilen_setHash : (s.setHash h b).ilen = s.ilen := by cases b <;> rfl
@[simp] theorem State.olen_setHash : (s.setHash h b).olen = s.olen := by cases b <;> rfl
@[simp] theorem State.nsym_setHash : (s.setHash h b).nsym = s.nsym := by cases b <;> rfl
@[simp] theorem State.klen_setHash : (s.setHash h b).klen = s.klen := by cases b <;> rfl
@[simp] theorem State.wpl_setHash : (s.setHash h b).wpl = s.wpl := by cases b <;> rfl
@[simp] theorem State.root_setHash : (s.setHash h b).root = s.root := by cases b <;> rfl
@[simp] theorem State.nleaf_setHash : (s.setHash h b).nleaf = s.nleaf := by cases b <;> rfl
@[simp] theorem State.tcnt_setHash : (s.setHash h b).tcnt = s.tcnt := by cases b <;> rfl
@[simp] theorem State.mcnt_setHash : (s.setHash h b).mcnt = s.mcnt := by cases b <;> rfl
@[simp] theorem State.ibuf_setHash : (s.setHash h b).ibuf = s.ibuf := by cases b <;> rfl
@[simp] theorem State.obuf_setHash : (s.setHash h b).obuf = s.obuf := by cases b <;> rfl
@[simp] theorem State.key_setHash : (s.setHash h b).key = s.key := by cases b <;> rfl
@[simp] theorem State.freq_setHash : (s.setHash h b).freq = s.freq := by cases b <;> rfl
@[simp] theorem State.table_setHash : (s.setHash h b).table = s.table := by cases b <;> rfl
@[simp] theorem State.node_setHash : (s.setHash h b).node = s.node := by cases b <;> rfl
@[simp] theorem State.trie_setHash : (s.setHash h b).trie = s.trie := by cases b <;> rfl
@[simp] theorem State.map_setHash : (s.setHash h b).map = s.map := by cases b <;> rfl
@[simp] theorem State.pending_setHash : (s.setHash h b).pending = s.pending := by cases b <;> rfl
@[simp] theorem State.replies_setHash : (s.setHash h b).replies = s.replies := by cases b <;> rfl
@[simp] theorem State.draws_setHash : (s.setHash h b).draws = s.draws := by cases b <;> rfl

/-! ### issueFirst -/

@[simp] theorem State.cfg_issueFirst : (s.issueFirst w).cfg = s.cfg := rfl
@[simp] theorem State.err_issueFirst : (s.issueFirst w).err = s.err := rfl
@[simp] theorem State.einfo_issueFirst : (s.issueFirst w).einfo = s.einfo := rfl
@[simp] theorem State.ccnt_issueFirst : (s.issueFirst w).ccnt = s.ccnt := rfl
@[simp] theorem State.ilen_issueFirst : (s.issueFirst w).ilen = s.ilen := rfl
@[simp] theorem State.olen_issueFirst : (s.issueFirst w).olen = s.olen := rfl
@[simp] theorem State.nsym_issueFirst : (s.issueFirst w).nsym = s.nsym := rfl
@[simp] theorem State.klen_issueFirst : (s.issueFirst w).klen = s.klen := rfl
@[simp] theorem State.wpl_issueFirst : (s.issueFirst w).wpl = s.wpl := rfl
@[simp] theorem State.root_issueFirst : (s.issueFirst w).root = s.root := rfl
@[simp] theorem State.nleaf_issueFirst : (s.issueFirst w).nleaf = s.nleaf := rfl
@[simp] theorem State.tcnt_issueFirst : (s.issueFirst w).tcnt = s.tcnt := rfl
@[simp] theorem State.mcnt_issueFirst : (s.issueFirst w).mcnt = s.mcnt := rfl
@[simp] theorem State.hash0_issueFirst : (s.issueFirst w).hash0 = s.hash0 := rfl
@[simp] theorem State.hash1_issueFirst : (s.issueFirst w).hash1 = s.hash1 := rfl
@[simp] theorem State.ibuf_issueFirst : (s.issueFirst w).ibuf = s.ibuf := rfl
@[simp] theorem State.obuf_issueFirst : (s.issueFirst w).obuf = s.obuf := rfl
@[simp] theorem State.key_issueFirst : (s.issueFirst w).key = s.key := rfl
@[simp] theorem State.freq_issueFirst : (s.issueFirst w).freq = s.freq := rfl
@[simp] theorem State.table_issueFirst : (s.issueFirst w).table = s.table := rfl
@[simp] theorem State.node_issueFirst : (s.issueFirst w).node = s.node := rfl
@[simp] theorem State.trie_issueFirst : (s.issueFirst w).trie = s.trie := rfl
@[simp] theorem State.map_issueFirst : (s.issueFirst w).map = s.map := rfl
@[simp] theorem State.pending_issueFirst : (s.issueFirst w).pending = .cmd w :: s.pending := rfl
@[simp] theorem State.replies_issueFirst : (s.issueFirst w).replies = s.replies := rfl
@[simp] theorem State.draws_issueFirst : (s.issueFirst w).draws = s.draws := rfl

/-! ### withProgram -/

@[simp] theorem State.cfg_withProgram : (s.withProgram p).cfg = s.cfg := rfl
@[simp] theorem State.err_withProgram : (s.withProgram p).err = s.err := rfl
@[simp] theorem State.einfo_withProgram : (s.withProgram p).einfo = s.einfo := rfl
@[simp] theorem State.ccnt_withProgram : (s.withProgram p).ccnt = s.ccnt := rfl
@[simp] theorem State.ilen_withProgram : (s.withProgram p).ilen = s.ilen := rfl
@[simp] theorem State.olen_withProgram : (s.withProgram p).olen = s.olen := rfl
@[simp] theorem State.nsym_withProgram : (s.withProgram p).nsym = s.nsym := rfl
@[simp] theorem State.klen_withProgram : (s.withProgram p).klen = s.klen := rfl
@[simp] theorem State.wpl_withProgram : (s.withProgram p).wpl = s.wpl := rfl
@[simp] theorem State.root_withProgram : (s.withProgram p).root = s.root := rfl
@[simp] theorem State.nleaf_withProgram : (s.withProgram p).nleaf = s.nleaf := rfl
@[simp] theorem State.tcnt_withProgram : (s.withProgram p).tcnt = s.tcnt := rfl
@[simp] theorem State.mcnt_withProgram : (s.withProgram p).mcnt = s.mcnt := rfl
@[simp] theorem State.hash0_withProgram : (s.withProgram p).hash0 = s.hash0 := rfl
@[simp] theorem State.hash1_withProgram : (s.withProgram p).hash1 = s.hash1 := rfl
@[simp] theorem State.ibuf_withProgram : (s.withProgram p).ibuf = s.ibuf := rfl
@[simp] theorem State.obuf_withProgram : (s.withProgram p).obuf = s.obuf := rfl
@[simp] theorem State.key_withProgram : (s.withProgram p).key = s.key := rfl
@[simp] theorem State.freq_withProgram : (s.withProgram p).freq = s.freq := rfl
@[simp] theorem State.table_withProgram : (s.withProgram p).table = s.table := rfl
@[simp] theorem State.node_withProgram : (s.withProgram p).node = s.node := rfl
@[simp] theorem State.trie_withProgram : (s.withProgram p).trie = s.trie := rfl
@[simp] theorem State.map_withProgram : (s.withProgram p).map = s.map := rfl
@[simp] theorem State.pending_withProgram : (s.withProgram p).pending = p := rfl
@[simp] theorem State.replies_withProgram : (s.withProgram p).replies = s.replies := rfl
@[simp] theorem State.draws_withProgram : (s.withProgram p).draws = s.draws := rfl

/-! ### The selected buffer, length and digest -/

@[simp] theorem State.buf_setBuf : (s.setBuf m b).buf b = m := by cases b <;> rfl
@[simp] theorem State.buf_retire : s.retire.buf b = s.buf b := by cases b <;> rfl
@[simp] theorem State.len_setBuf (c : BufSel) : (s.setBuf m b).len c = s.len c := by cases b <;> cases c <;> rfl
@[simp] theorem State.len_retire : s.retire.len b = s.len b := by cases b <;> rfl

end Sys2Proof.Machine
end

