-- ==== Sys2Proof/Laws/Ops.lean ====
section
/-! SUPPORT. What each shared operation can answer, said once: the wrappers of a command, the common part of the decode
commands, the host step, and one step. -/

namespace Sys2Proof.Machine

/-- Truncation is the remainder, and does nothing to what fits. -/
theorem trunc_lt (w v : Nat) : trunc w v < 2 ^ w := Nat.mod_lt _ (by positivity)

theorem trunc_of_lt {w v : Nat} (h : v < 2 ^ w) : trunc w v = v := Nat.mod_eq_of_lt h

theorem unlessStopped_running {act : State → Result} {s : State} (h : s.err = 0#8) : unlessStopped act s = act s := by
  simp [unlessStopped, h]

theorem unlessStopped_stopped {act : State → Result} {s : State} (h : s.err ≠ 0#8) : unlessStopped act s = .next s := by
  simp [unlessStopped, h]

/-- A command whose body succeeds retires. -/
theorem command_ok {body : State → Except Raised State} {s t : State} (h : s.err = 0#8) (hb : body s = .ok t) :
    command body s = .next t.retire := by
  simp [command, unlessStopped, h, hb]

/-- A command whose body raises takes the fault. -/
theorem command_error {body : State → Except Raised State} {s : State} {r : Raised} (h : s.err = 0#8)
    (hb : body s = .error r) : command body s = .next (s.raise r) := by
  simp [command, unlessStopped, h, hb]

theorem outputCommand_ok {body : State → Except Raised State} {s t : State} (h : s.err = 0#8) (hb : body s = .ok t) :
    outputCommand body s = .next t.retire := by
  simp [outputCommand, unlessStopped, h, hb]

theorem outputCommand_error {body : State → Except Raised State} {s : State} {r : Raised} (h : s.err = 0#8)
    (hb : body s = .error r) : outputCommand body s = .next (s.loseOutput.raise r) := by
  simp [outputCommand, unlessStopped, h, hb]

/-- Everything `command` can do: it is dropped in error-stop, retires what its body answers, or takes its fault. -/
theorem command_cases {body : State → Except Raised State} {s t : State} (h : command body s = .next t) :
    (s.err ≠ 0#8 ∧ t = s) ∨ (s.err = 0#8 ∧ ∃ u, body s = .ok u ∧ t = u.retire) ∨
      (s.err = 0#8 ∧ ∃ r, body s = .error r ∧ t = s.raise r) := by
  by_cases he : s.err = 0#8
  · rcases hb : body s with r | u
    · rw [command_error he hb] at h
      exact .inr (.inr ⟨he, r, rfl, (Host.Outcome.next.inj h).symm⟩)
    · rw [command_ok he hb] at h
      exact .inr (.inl ⟨he, u, rfl, (Host.Outcome.next.inj h).symm⟩)
  · rw [command, unlessStopped_stopped he] at h
    exact .inl ⟨he, (Host.Outcome.next.inj h).symm⟩

/-- Everything `outputCommand` can do. -/
theorem outputCommand_cases {body : State → Except Raised State} {s t : State} (h : outputCommand body s = .next t) :
    (s.err ≠ 0#8 ∧ t = s) ∨ (s.err = 0#8 ∧ ∃ u, body s = .ok u ∧ t = u.retire) ∨
      (s.err = 0#8 ∧ ∃ r, body s = .error r ∧ t = s.loseOutput.raise r) := by
  by_cases he : s.err = 0#8
  · rcases hb : body s with r | u
    · rw [outputCommand_error he hb] at h
      exact .inr (.inr ⟨he, r, rfl, (Host.Outcome.next.inj h).symm⟩)
    · rw [outputCommand_ok he hb] at h
      exact .inr (.inl ⟨he, u, rfl, (Host.Outcome.next.inj h).symm⟩)
  · rw [outputCommand, unlessStopped_stopped he] at h
    exact .inl ⟨he, (Host.Outcome.next.inj h).symm⟩

/-- Both wrappers answer a next state, whatever their body does. -/
theorem command_total (body : State → Except Raised State) (s : State) : ∃ t, command body s = .next t := by
  by_cases he : s.err = 0#8
  · rcases hb : body s with r | u
    · exact ⟨_, command_error he hb⟩
    · exact ⟨_, command_ok he hb⟩
  · exact ⟨_, unlessStopped_stopped he⟩

theorem outputCommand_total (body : State → Except Raised State) (s : State) :
    ∃ t, outputCommand body s = .next t := by
  by_cases he : s.err = 0#8
  · rcases hb : body s with r | u
    · exact ⟨_, outputCommand_error he hb⟩
    · exact ⟨_, outputCommand_ok he hb⟩
  · exact ⟨_, unlessStopped_stopped he⟩

/-- Everything CGEN can do. -/
theorem execCgen_cases {s t : State} (h : execCgen s = .next t) :
    (s.err ≠ 0#8 ∧ t = s) ∨
      (s.err = 0#8 ∧ ∃ g, generateCodes s = some g ∧ t = { s with table := g.table, wpl := g.wpl }.retire) := by
  by_cases he : s.err = 0#8
  · rw [execCgen, unlessStopped_running he] at h
    rcases hg : generateCodes s with _ | g
    · simp [hg] at h
    · simp only [hg, Host.Outcome.next.injEq] at h
      exact .inr ⟨he, g, rfl, h.symm⟩
  · rw [execCgen, unlessStopped_stopped he] at h
    exact .inl ⟨he, (Host.Outcome.next.inj h).symm⟩

/-- Everything the common part of DECT and DECM can answer as a success (R123). -/
theorem decodeWith_ok {loop : State → BitString → Nat → Except Nat (List Symbol)} {s t : State}
    (h : decodeWith loop s = .ok t) :
    (s.nsym = 0 ∧ t = { s with olen := 0 }) ∨
      (s.nsym ≠ 0 ∧ s.ilen ≤ s.cfg.bufBytes ∧ s.nsym ≤ 8 * s.ilen ∧ s.nsym ≤ s.cfg.bufBytes ∧
        ∃ out, loop s (streamBits s.ibuf s.ilen) s.nsym = .ok out ∧
          t = { s with obuf := s.obuf.writeBytes 0 out, olen := trunc s.cfg.lenW s.nsym }) := by
  unfold decodeWith at h
  split_ifs at h with h₁ h₂ h₃ h₄
  · exact .inl ⟨h₁, (Except.ok.inj h).symm⟩
  · rcases hl : loop s (streamBits s.ibuf s.ilen) s.nsym with e | out
    · simp [hl] at h
    · simp only [hl, Except.ok.injEq] at h
      exact .inr ⟨h₁, by omega, by omega, by omega, out, rfl, h.symm⟩

/-- A loop that succeeds emits exactly the Symbols it was asked for. -/
theorem decodeStream_length {σ : Type} {next : σ → Bool → Advance σ} {start : σ} {bits : BitString} {st : σ}
    {need cnt : Nat} {out : List Symbol} (h : decodeStream next start bits st need cnt = .ok out) :
    out.length = need := by
  induction bits generalizing st need cnt out with
  | nil =>
    unfold decodeStream at h
    split_ifs at h with hn
    · cases h
      exact hn.symm
  | cons b bs ih =>
    unfold decodeStream at h
    split_ifs at h with hn
    · cases h
      exact hn.symm
    · rcases hx : next st b with _ | st' | sym
      · simp [hx] at h
      · simp only [hx] at h
        exact ih h
      · simp only [hx] at h
        rcases hr : decodeStream next start bs start (need - 1) (cnt + 1) with e | o
        · simp [hr] at h
        · simp only [hr, Except.ok.injEq] at h
          subst h
          have := ih hr
          simp only [List.length_cons]
          omega

/-- One step, by its first pending host step. -/
theorem step_idle {s : State} (h : s.pending = []) : step s = .next s := by
  simp [step, h]

theorem step_host {s : State} {x : HostStep} {rest : List HostStep} (h : s.pending = x :: rest) :
    step s = runHostStep x { s with pending := rest } := by
  simp [step, h]

/-- Everything a step can do that answers a next state. -/
theorem step_cases {s t : State} (h : step s = .next t) :
    (s.pending = [] ∧ t = s) ∨
      ∃ x rest, s.pending = x :: rest ∧ runHostStep x { s with pending := rest } = .next t := by
  rcases hp : s.pending with _ | ⟨x, rest⟩
  · rw [step_idle hp] at h
    exact .inl ⟨rfl, (Host.Outcome.next.inj h).symm⟩
  · rw [step_host hp] at h
    exact .inr ⟨x, rest, rfl, h⟩

end Sys2Proof.Machine
end

