-- ==== Sys2Proof/Laws/PerInstr.lean ====
section
/-! SUPPORT. One lemma per command about its word as syntax (spec/30_encoding.md R80, R83): format C. -/

namespace Sys2Proof.Laws.FormatC

/-- Bits 7:1 of the command's word are 0, and bit 0 is 0 unless the command takes the operand b (R80). -/
def Statement (i : Instr) : Prop :=
  zeroField (encode i) = 0#7 ∧
    ((encode i).getLsbD 0 = true → opcField (encode i) = 0x10#8 ∨ opcField (encode i) = 0x11#8 ∨ opcField (encode i) = 0x18#8)

theorem nop : Statement .nop := by unfold Statement; decide
theorem rst : Statement .rst := by unfold Statement; decide
theorem swap : Statement .swap := by unfold Statement; decide
theorem ciphf (b : BufSel) : Statement (.ciphf b) := by unfold Statement; cases b <;> decide
theorem ciphi (b : BufSel) : Statement (.ciphi b) := by unfold Statement; cases b <;> decide
theorem hash (b : BufSel) : Statement (.hash b) := by unfold Statement; cases b <;> decide
theorem fcnt : Statement .fcnt := by unfold Statement; decide
theorem tbld : Statement .tbld := by unfold Statement; decide
theorem cgen : Statement .cgen := by unfold Statement; decide
theorem pack : Statement .pack := by unfold Statement; decide
theorem trie : Statement .trie := by unfold Statement; decide
theorem dect : Statement .dect := by unfold Statement; decide
theorem mapb : Statement .mapb := by unfold Statement; decide
theorem decm : Statement .decm := by unfold Statement; decide

end Sys2Proof.Laws.FormatC
end

