-- ==== Sys2Proof/Laws/Pipeline.lean ====
section
/-! SUPPORT. What the host pipeline can answer, said once: named failures, the end of a run, Compress, Decompress, the tags,
the source and the sink. -/

namespace Sys2Proof.Machine

/-- ERR holds the code of exactly the cause it names. -/
theorem ofCode_eq_some {v : BitVec 8} {c : Cause} : Cause.ofCode v = some c ↔ v = c.code := by
  constructor
  · intro h
    have hc : (c.code == v) = true := List.find?_some (p := fun c : Cause => c.code == v) h
    exact (beq_iff_eq.1 hc).symm
  · rintro rfl
    cases c <;> rfl

/-- The failure of a state whose ERR holds a code of R190. -/
theorem failure_of_code {s : State} {c : Cause} (h : s.err = c.code) : s.failure = c.failure s.einfo := by
  simp [State.failure, ofCode_eq_some.2 h]

/-- A run ends in a state exactly when that is the state it leaves, without a fault (R19). -/
theorem endOfRun_eq_ok {r : Result} {t : State} : endOfRun r = .ok t ↔ r = .next t ∧ t.err = 0#8 := by
  rcases r with u | f | f
  · by_cases h : u.err = 0#8
    · simp only [endOfRun, h, if_true, Except.ok.injEq, Host.Outcome.next.injEq]
      exact ⟨fun e => ⟨e, e ▸ h⟩, And.left⟩
    · simp only [endOfRun, h, if_false, reduceCtorEq, Host.Outcome.next.injEq, false_iff, not_and]
      rintro rfl
      exact h
  · simp [endOfRun]
  · simp [endOfRun]

/-- A run that leaves a fault ends in the failure that fault is. -/
theorem endOfRun_fault {t : State} {c : Cause} (h : t.err = c.code) :
    endOfRun (.next t) = .error (c.failure t.einfo) := by
  have h₀ : t.err ≠ 0#8 := by
    rw [h]
    cases c <;> decide
  simp [endOfRun, h₀, failure_of_code h]

/-- Compress completes exactly when its program leaves a state without a fault. -/
theorem compress_eq_ok {s : State} {x : List Byte} {cipher : Option (List Byte)} {h : Digests} {c : Compressed} :
    compress s x cipher h = .ok c ↔
      ∃ t, runProgram (compressProgram x cipher h) s = .next t ∧ t.err = 0#8 ∧ t.compressed h = c := by
  unfold compress
  rcases hr : endOfRun (runProgram (compressProgram x cipher h) s) with f | t
  · simp only [Except.map, reduceCtorEq, false_iff, not_exists, not_and]
    intro t h₁ h₂
    rw [endOfRun_eq_ok.2 ⟨h₁, h₂⟩] at hr
    cases hr
  · obtain ⟨h₁, h₂⟩ := endOfRun_eq_ok.1 hr
    simp [Except.map, h₁, h₂]

/-- Decompress on a text the reader refuses. -/
theorem decompress_textError {s : State} {text : Text} {c : HostCondition} (h : textToTable s.cfg.lenW text = .error c)
    (payload : List Byte) (cipher : Option (List Byte)) (d : Strategy) :
    decompress s text payload cipher d = .error (.condition c) := by
  simp [decompress, h]

/-- Decompress on a text the reader accepts is the end of its program's run. -/
theorem decompress_text {s : State} {text : Text} {t : TableImage} (h : textToTable s.cfg.lenW text = .ok t)
    (payload : List Byte) (cipher : Option (List Byte)) (d : Strategy) :
    decompress s text payload cipher d =
      (endOfRun (runProgram (decompressProgram t payload cipher d) s)).map State.decompressed := by
  simp [decompress, h]

/-- The tags that were prepended are taken off again (R178, R179). -/
theorem checkTags_prependTags {fr : Framing} {t : Tags} (h : t.absent = false → fr.recovers t) (x : List Byte) :
    checkTags fr t (prependTags fr t x) = .ok x := by
  rcases ha : t.absent
  · simp [checkTags, prependTags, ha, h ha x]
  · simp [checkTags, prependTags, ha]

/-- Expecting other tags than those prepended is a mismatch (R179). -/
theorem checkTags_mismatch {fr : Framing} {t e : Tags} (h : fr.recovers t) (ha : t.absent = false)
    (he : e.absent = false) (hne : e ≠ t) (x : List Byte) :
    checkTags fr e (prependTags fr t x) = .error .validationMismatch := by
  simp [checkTags, prependTags, ha, he, h x, hne.symm]

/-- Without tags the sender's pipeline is Compress. -/
theorem send_absent {t : Tags} (h : t.absent = true) (s : State) (fr : Framing) (x : List Byte)
    (cipher : Option (List Byte)) (w : Digests) : send s fr t x cipher w = compress s x cipher w := by
  simp [send, prependTags, h]

/-- Without tags the receiver's pipeline is Decompress. -/
theorem receive_absent {e : Tags} (h : e.absent = true) (s : State) (fr : Framing) (text : Text) (payload : List Byte)
    (cipher : Option (List Byte)) (d : Strategy) :
    receive s fr e text payload cipher d = decompress s text payload cipher d := by
  unfold receive
  rcases decompress s text payload cipher d with f | out <;> simp [checkTags, h]

/-- The receiver's pipeline on a decompression that completes is the tag check. -/
theorem receive_of_ok {s : State} {text : Text} {payload out : List Byte} {cipher : Option (List Byte)} {d : Strategy}
    (h : decompress s text payload cipher d = .ok out) (fr : Framing) (e : Tags) :
    receive s fr e text payload cipher d = (checkTags fr e out).mapError .condition := by
  unfold receive
  rw [h]
  dsimp only
  rcases checkTags fr e out with c | x <;> rfl

/-- An unreadable source ends the pipeline at once (R169 class 1). -/
theorem sendFile_unreadable (s : State) (fr : Framing) (t : Tags) (cipher : Option (List Byte)) (h : Digests)
    (writable : Bool) : sendFile s fr t none cipher h writable = .error (.condition .ioError) := rfl

/-- An unwritable destination leaves no output (R169 class 1). -/
theorem sendFile_unwritable {s : State} {fr : Framing} {t : Tags} {x : List Byte} {cipher : Option (List Byte)}
    {h : Digests} {c : Compressed} (hc : send s fr t x cipher h = .ok c) :
    sendFile s fr t (some x) cipher h false = .error (.condition .ioError) := by
  simp [sendFile, readSource, writeSink, Except.bind, hc]

end Sys2Proof.Machine
end

