-- ==== Sys2Proof/Tests/Slice0.lean ====
section
/-! SUPPORT. Tests with expected values from spec/95_test_vectors.md (V, S) or written out from the encodings of R82, the
smoke tests of the well-formedness checks, and one witness for the hypotheses of every obligation that has some. -/

namespace Sys2Proof.Tests

open Sys2Proof.Machine Sys2Proof.Claims

/-- The state an outcome goes on with. -/
def after (r : Result) : Option State :=
  match r with
  | .next t => some t
  | .fault _ => none
  | .refused _ => none

/-- One field of the state an outcome goes on with. -/
def field {α : Type} (f : State → α) (r : Result) : Option α := (after r).map f

/-- A byte memory that lists these bytes from index 0. -/
def mem (d : Nat) (bs : List Byte) : Memory := ⟨d, (List.range bs.length).zip bs⟩

/-- The reset state of a block whose ADD_K is 3 (the value the vectors of spec/95_test_vectors.md assume). -/
def base : State := { State.reset with cfg := { Config.default with addK := 3#8 } }

/-- `base` with these input bytes. -/
def input (bs : List Byte) : State := { base with ibuf := mem 0 bs, ilen := bs.length }

/-- "AAAAB". -/
def aaaab : List Byte := [0x41#8, 0x41#8, 0x41#8, 0x41#8, 0x42#8]

/-- "hello". -/
def hello : List Byte := [0x68#8, 0x65#8, 0x6C#8, 0x6C#8, 0x6F#8]

/-- The code table of S1: 0x41 = "1", 0x42 = "0". -/
def tableS1 : CodeTable := ⟨[(0x41, 1#8), (0x42, 1#8)], [(32 * 0x41, 0x80#8)]⟩

/-- The table of V33a: 0x01 = "0", 0x02 = "01", 0x03 = "0". -/
def tableV33 : CodeTable := ⟨[(1, 1#8), (2, 2#8), (3, 1#8)], [(64, 0x40#8)]⟩

/-- The tree of S1. -/
def nodesS1 : Sparse TreeNode :=
  [(65, ⟨true, false, 0x41#8, 0x41#8, 4, 0x1FF#9, 0x1FF#9⟩), (66, ⟨true, false, 0x42#8, 0x42#8, 1, 0x1FF#9, 0x1FF#9⟩),
   (256, ⟨true, true, 0#8, 0x41#8, 5, 66#9, 65#9⟩)]

/-- The trie of S1. -/
def trieS1 : Sparse TrieNode :=
  [(0, ⟨2#16, 1#16, false, 0#8⟩), (1, ⟨0xFFFF#16, 0xFFFF#16, true, 0x41#8⟩), (2, ⟨0xFFFF#16, 0xFFFF#16, true, 0x42#8⟩)]

/-- The map of S1: "1" and "0" under their keys 3 and 2. -/
def mapS1 : Sparse Symbol := [(2, 0x42#8), (3, 0x41#8)]

/-- The stream F0 of S1 with five Symbols to decode, and both automata built. -/
def decodeS1 : State := { input [0xF0#8] with nsym := 5, trie := trieS1, tcnt := 3#16, map := mapS1, mcnt := 2#9 }

/-! ### Decoding: words written out from R80 and R82 -/

theorem test_decode_nop : decode 0b0000000000000000#16 = .ok .nop := by decide
theorem test_decode_rst : decode 0b0000000100000000#16 = .ok .rst := by decide
theorem test_decode_swap : decode 0b0000001000000000#16 = .ok .swap := by decide
theorem test_decode_ciphf0 : decode 0b0001000000000000#16 = .ok (.ciphf .input) := by decide
theorem test_decode_ciphf1 : decode 0b0001000000000001#16 = .ok (.ciphf .output) := by decide
theorem test_decode_ciphi0 : decode 0b0001000100000000#16 = .ok (.ciphi .input) := by decide
theorem test_decode_ciphi1 : decode 0b0001000100000001#16 = .ok (.ciphi .output) := by decide
theorem test_decode_hash0 : decode 0b0001100000000000#16 = .ok (.hash .input) := by decide
theorem test_decode_hash1 : decode 0b0001100000000001#16 = .ok (.hash .output) := by decide
theorem test_decode_fcnt : decode 0b0010000000000000#16 = .ok .fcnt := by decide
theorem test_decode_tbld : decode 0b0010000100000000#16 = .ok .tbld := by decide
theorem test_decode_cgen : decode 0b0010001000000000#16 = .ok .cgen := by decide
theorem test_decode_pack : decode 0b0010001100000000#16 = .ok .pack := by decide
theorem test_decode_trie : decode 0b0011000000000000#16 = .ok .trie := by decide
theorem test_decode_dect : decode 0b0011000100000000#16 = .ok .dect := by decide
theorem test_decode_mapb : decode 0b0011001000000000#16 = .ok .mapb := by decide
theorem test_decode_decm : decode 0b0011001100000000#16 = .ok .decm := by decide
/-- V52: 0x1802 and 0x0101 and 0x0300, one of each kind of R84. -/
theorem test_illegal_words : decode 0x1802#16 = .error .zeroField ∧ decode 0x0101#16 = .error .strayOperand ∧
    decode 0x0300#16 = .error .unlistedOpcode := by decide
theorem test_table_word : decodeTableWord 16 0x1801 = some (.hash .output) := by decide

/-! ### Well-formedness: one ill-formed term for each check -/

theorem test_wf_default : Config.default.wellFormed = true := by decide
theorem test_wf_lenW_low : { Config.default with lenW := 7, bufBytes := 100 }.wellFormed = false := by decide
theorem test_wf_lenW_high : { Config.default with lenW := 65 }.wellFormed = false := by decide
theorem test_wf_bufBytes_zero : { Config.default with bufBytes := 0 }.wellFormed = false := by decide
theorem test_wf_bufBytes_high : { Config.default with lenW := 8, bufBytes := 256 }.wellFormed = false := by decide
theorem test_wf_keyBytes_zero : { Config.default with keyBytes := 0 }.wellFormed = false := by decide
theorem test_wf_keyBytes_high : { Config.default with keyBytes := 65536 }.wellFormed = false := by decide
theorem test_wf_trieNodes_low : { Config.default with trieNodes := 65280 }.wellFormed = false := by decide
theorem test_wf_trieNodes_high : { Config.default with trieNodes := 65536 }.wellFormed = false := by decide
theorem test_wf_hashMult_even : { Config.default with hashMult := 2#64 }.wellFormed = false := by decide
theorem test_wf_code_empty : codeWellFormed [] = false := by decide
theorem test_wf_code_long : codeWellFormed (List.replicate 256 true) = false := by decide +kernel

/-! ### Commands, one step each -/

/-- V50. -/
theorem test_nop : field (fun t => (t.ccnt, t.err)) (exec .nop State.reset) = some (1#32, 0#8) := by decide
/-- V55. -/
theorem test_rst : field (fun t => (t.err, t.einfo, t.ilen, t.ccnt, t.ibuf.read 4))
    (exec .rst { input aaaab with err := 1#8, einfo := 0x2001, ccnt := 9#32 }) =
      some (0#8, 0, 0, 0#32, 0x42#8) := by decide
/-- V56. -/
theorem test_swap : field (fun t => (t.ibuf.read 0, t.ilen, t.obuf.bytes 5, t.olen))
    (exec .swap { input aaaab with obuf := mem 1 [0xF0#8], olen := 1 }) = some (0xF0#8, 1, aaaab, 5) := by
  decide +kernel
/-- V57. -/
theorem test_swap_len : field (fun t => (t.err, t.einfo, t.ilen)) (exec .swap { base with ilen := 70000 }) =
    some (2#8, 70000, 70000) := by decide
/-- V35: FF 00 FE with ADD_K = 3. -/
theorem test_ciphf_wraps : field (fun t => t.ibuf.bytes 3) (exec (.ciphf .input) (input [0xFF#8, 0x00#8, 0xFE#8])) =
    some [0x02#8, 0x03#8, 0x01#8] := by decide +kernel
/-- V37: "hello world" with the key "key". -/
theorem test_ciphf_keyed : field (fun t => t.ibuf.bytes 11) (exec (.ciphf .input)
    { input (hello ++ [0x20#8, 0x77#8, 0x6F#8, 0x72#8, 0x6C#8, 0x64#8]) with
      key := mem 2 [0x6B#8, 0x65#8, 0x79#8], klen := 3#16 }) =
    some [0x03#8, 0x00#8, 0x15#8, 0x07#8, 0x0A#8, 0x59#8, 0x1C#8, 0x0A#8, 0x0B#8, 0x07#8, 0x01#8] := by
  decide +kernel
/-- V35: 00 01 02 with ADD_K = 3. -/
theorem test_ciphi_wraps : field (fun t => t.ibuf.bytes 3) (exec (.ciphi .input) (input [0x00#8, 0x01#8, 0x02#8])) =
    some [0xFD#8, 0xFE#8, 0xFF#8] := by decide +kernel
/-- V39a. -/
theorem test_ciphi_output : field (fun t => t.obuf.bytes 5) (exec (.ciphi .output)
    { base with obuf := mem 1 [0x03#8, 0x0E#8, 0x07#8, 0x07#8, 0x04#8], olen := 5, key := mem 2 [0x6B#8], klen := 1#16 }) =
    some hello := by decide +kernel
/-- V40: "foobar", default parameters. -/
theorem test_hash_foobar : field (fun t => (t.hash0, t.hash1))
    (exec (.hash .input) (input [0x66#8, 0x6F#8, 0x6F#8, 0x62#8, 0x61#8, 0x72#8])) =
    some (0x85944171F73967E8#64, 0#64) := by decide +kernel
/-- S1: the digest of F0. -/
theorem test_hash_output : field (fun t => (t.hash0, t.hash1))
    (exec (.hash .output) { base with obuf := mem 1 [0xF0#8], olen := 1 }) = some (0#64, 0xAF646D4C8602E2EF#64) := by
  decide +kernel
/-- S1. -/
theorem test_fcnt : field (fun t => (t.freq, t.nsym)) (exec .fcnt (input aaaab)) = some ([(0x41, 4), (0x42, 1)], 5) := by
  decide +kernel
/-- V4. -/
theorem test_fcnt_len : field (fun t => (t.err, t.einfo, t.freq)) (exec .fcnt { base with ilen := 65537 }) =
    some (2#8, 65537, []) := by decide
/-- V7: an Internal node of equal frequency and smaller key is taken before a Leaf. -/
theorem test_tbld_tie : field (fun t => (t.root, t.nleaf, nodeAt t.node 257, nodeAt t.node 258))
    (exec .tbld { base with freq := [(1, 1), (2, 1), (3, 2), (4, 2)] }) =
    some (258#9, 4#9, ⟨true, true, 0#8, 1#8, 4, 256#9, 3#9⟩, ⟨true, true, 0#8, 1#8, 6, 4#9, 257#9⟩) := by
  decide +kernel
/-- V13: the sole Leaf is the root. -/
theorem test_tbld_sole : field (fun t => (t.root, t.nleaf)) (exec .tbld { base with freq := [(0x41, 10)] }) =
    some (65#9, 1#9) := by decide +kernel
/-- S1. -/
theorem test_cgen : field (fun t => (t.table, t.wpl)) (exec .cgen { base with node := nodesS1, root := 256#9 }) =
    some (tableS1, 5) := by decide +kernel
/-- V23: the fallback Code. -/
theorem test_cgen_fallback : field (fun t => (t.table.codeOf 0x41, t.table.len 0x42, t.wpl)) (exec .cgen
    { base with node := [(65, ⟨true, false, 0x41#8, 0x41#8, 10, 0x1FF#9, 0x1FF#9⟩)], root := 65#9 }) =
    some ([false], 0, 10) := by decide +kernel
/-- S1. -/
theorem test_pack : field (fun t => (t.obuf.read 0, t.olen)) (exec .pack { input aaaab with table := tableS1 }) =
    some (0xF0#8, 1) := by decide +kernel
/-- V29a. -/
theorem test_pack_noCode : field (fun t => (t.err, t.einfo, t.olen)) (exec .pack
    { input [0x41#8, 0x41#8, 0x41#8, 0x41#8, 0x43#8] with table := tableS1, olen := 7 }) = some (5#8, 4, 0) := by
  decide +kernel
/-- S1. -/
theorem test_trie : field (fun t => (t.trie, t.tcnt)) (exec .trie { base with table := tableS1 }) =
    some (trieS1, 3#16) := by decide +kernel
/-- V33a: a table that is not prefix-free. -/
theorem test_trie_conflict : field (fun t => (trieAt t.trie 0, trieAt t.trie 1, trieAt t.trie 2, t.tcnt))
    (exec .trie { base with table := tableV33 }) =
    some (⟨1#16, 0xFFFF#16, false, 0#8⟩, ⟨0xFFFF#16, 2#16, true, 3#8⟩, ⟨0xFFFF#16, 0xFFFF#16, true, 2#8⟩, 3#16) := by
  decide +kernel
/-- V33a: Symbol 3 replaces Symbol 1. -/
theorem test_mapb_duplicate : field (fun t => (mapFind t.map [false], mapFind t.map [false, true], t.mcnt))
    (exec .mapb { base with table := tableV33 }) = some (some 3#8, some 2#8, 2#9) := by decide +kernel
/-- S1. -/
theorem test_dect : field (fun t => (t.obuf.bytes 5, t.olen)) (exec .dect decodeS1) = some (aaaab, 5) := by decide +kernel
/-- V32c: 0x41 = "00", 0x42 = "01", stream 20. -/
theorem test_dect_walk : field (fun t => (t.err, t.einfo, t.olen)) (exec .dect { input [0x20#8] with
    nsym := 3
    trie := [(0, ⟨1#16, 0xFFFF#16, false, 0#8⟩), (1, ⟨2#16, 3#16, false, 0#8⟩),
      (2, ⟨0xFFFF#16, 0xFFFF#16, true, 0x41#8⟩), (3, ⟨0xFFFF#16, 0xFFFF#16, true, 0x42#8⟩)] }) =
    some (6#8, 1, 0) := by decide +kernel
/-- V24: an overstated count decodes padding bits. -/
theorem test_decm_padding : field (fun t => (t.obuf.bytes 8, t.olen)) (exec .decm { decodeS1 with nsym := 8 }) =
    some (aaaab ++ [0x42#8, 0x42#8, 0x42#8], 8) := by decide +kernel
/-- V24a. -/
theorem test_decm_format : field (fun t => (t.err, t.einfo)) (exec .decm { decodeS1 with nsym := 9 }) =
    some (3#8, 9) := by decide +kernel

/-! ### Host steps and host software -/

/-- V51. -/
theorem test_step_illegal : field (fun t => (t.err, t.einfo, t.status, t.ccnt, t.pending))
    (step (State.reset.withFetchWord 16 0x2001)) = some (1#8, 0x2001, 2#8, 0#32, []) := by decide
/-- V53: dropped in error-stop. -/
theorem test_step_dropped : field (fun t => (t.err, t.einfo, t.ccnt, t.nsym))
    (step ({ input aaaab with err := 1#8, einfo := 0x2001 }.withFetchWord 16 0x2000)) =
    some (1#8, 0x2001, 0#32, 0) := by decide
/-- V59: KLEN takes 16 bits. -/
theorem test_hostWrite_klen : (base.hostWrite 0 7 0x12345).hostRead 0 7 = 0x2345 := by decide
/-- V58: writes that are ignored. -/
theorem test_hostWrite_ignored : base.hostWrite 0 5 7 = base ∧ base.hostWrite 2 0 0xAA = base ∧
    base.hostWrite 4 256 1 = base ∧ base.hostWrite 9 0 1 = base := by decide
/-- V59a. -/
theorem test_hostRead_registers : base.hostRead 0 10 = 0x1FF ∧ base.hostRead 0 0 = 0 ∧ base.hostRead 0 8 = 3 := by
  decide
/-- V61. -/
theorem test_text_read : textToTable 32 ['5', '\n', '0', 'x', '4', '1', ' ', '0', 'x', '0', '1', ' ', '0', 'x', '8', '0',
    '\n', '0', 'x', '4', '2', ' ', '0', 'x', '0', '1', ' ', '0', 'x', '0', '0', '\n'] = .ok ⟨5, tableS1⟩ := by
  decide +kernel
/-- V63: a padding bit is 1. -/
theorem test_text_padding : textToTable 32 ['5', '\n', '0', 'x', '4', '1', ' ', '0', 'x', '0', '1', ' ', '0', 'x', 'C',
    '0', '\n'] = .error .formatError := by decide +kernel
/-- R177's first record: 0x61 0x01 0x00 and 0x62 0x03 0xC0, as `recordLine` writes them. -/
theorem test_text_record : recordLine ⟨[(0x62, 3#8)], [(32 * 0x62, 0xC0#8)]⟩ 0x62 =
    ['0', 'x', '6', '2', ' ', '0', 'x', '0', '3', ' ', '0', 'x', 'C', '0'] := by decide +kernel
/-- Scenario D's framing (S4): plain concatenation, each tag of two bytes. -/
def plainFraming : Framing where
  header t := t.sender ++ t.receiver
  split x := ⟨⟨x.take 2, (x.drop 2).take 2⟩, x.drop 4⟩
/-- The tags "S1" and "R1" of S4. -/
def tagsS4 : Tags := ⟨[0x53#8, 0x31#8], [0x52#8, 0x31#8]⟩
/-- S4: X = "S1R1hello". -/
theorem test_prependTags : prependTags plainFraming tagsS4 hello =
    [0x53#8, 0x31#8, 0x52#8, 0x31#8, 0x68#8, 0x65#8, 0x6C#8, 0x6C#8, 0x6F#8] := by decide
/-- S4: a corrupted tag byte is a validation mismatch. -/
theorem test_checkTags_corrupted : checkTags plainFraming tagsS4
    [0x53#8, 0x30#8, 0x52#8, 0x31#8, 0x68#8] = .error .validationMismatch := by decide
/-- R165: the two digests are separate options. -/
theorem test_compress_oneDigest : compressProgram [] none ⟨false, true⟩ =
    [.cmd 0x0100#16, .write 0 4 0, .cmd 0x2000#16, .cmd 0x2100#16, .cmd 0x2200#16, .cmd 0x2300#16, .cmd 0x1801#16] := by
  decide
/-- R169: the block's ERR_FORMAT is FORMAT_ERROR, ERR_WALK keeps its name. -/
theorem test_endOfRun_failure : endOfRun (.next { base with err := 3#8, einfo := 9 }) = .error (.condition .formatError) ∧
    endOfRun (.next { base with err := 6#8, einfo := 1 }) = .error (.blockFault .walk 1) := by decide
/-- Log entry 9: spaces after a directive's name, and a tab instead of them. -/
theorem test_parse_separator :
    parseStatement ['.', 'n', 's', 'y', 'm', ' ', '\t', ' ', '5'] = some (.nsym 5) ∧
    parseStatement ['.', 'n', 's', 'y', 'm', '\t', '5'] = none := by decide +kernel
/-- R88. -/
theorem test_pseudo_decodemx : (Statement.pseudo .decodemx).steps = [.cmd 0x3200#16, .cmd 0x3300#16, .cmd 0x1101#16] := by
  decide

end Sys2Proof.Tests
end

