-- ==== Sys2Proof/Tests/Witness.lean ====
section
/-! SUPPORT. For every obligation with hypotheses, concrete states and operands that meet all of them together; for an
obligation of several clauses, one for each clause, at a boundary of its range. -/

namespace Sys2Proof.Tests

open Sys2Proof.Machine Sys2Proof.Claims

/-- A state with ERR_WALK recorded. -/
def stopped : State := { input aaaab with err := 6#8, einfo := 1, ccnt := 4#32 }

/-- A full buffer length, and one over capacity. -/
def fullLength : State := { base with ilen := 65536, olen := 65536, klen := 256#16 }
def overLength : State := { base with ilen := 65537, olen := 65537, klen := 257#16 }

/-- The frequencies of S1. -/
def counted : State := { input aaaab with freq := [(0x41, 4), (0x42, 1)], nsym := 5 }

/-- The tree of S1, and the two degenerate trees. -/
def treeS1 : State := { base with node := nodesS1, root := 256#9, nleaf := 2#9 }
def soleLeaf : State := { base with node := [(65, ⟨true, false, 0x41#8, 0x41#8, 10, 0x1FF#9, 0x1FF#9⟩)], root := 65#9 }

/-! ### Encoding and steps -/

theorem witness_DecodeEncodeAgree : (Instr.hash .output).wellFormed = true ∧ decode 0x1801#16 = .ok (.hash .output) := by
  decide

theorem witness_StepRunsTheDecodedCommand :
    ({ base with pending := [.cmd 0x2300#16, .read 0 0] } : State).pending = .cmd 0x2300#16 :: [.read 0 0] ∧
      decode 0x2300#16 = .ok .pack := by decide

theorem witness_IllegalWordRaises : (base.issueFirst 0x0101#16).pending = .cmd 0x0101#16 :: [] ∧
    decode 0x0101#16 = .error .strayOperand ∧ base.err = 0#8 ∧ stopped.err ≠ 0#8 := by decide

theorem witness_ErrorStopDropsCommands : stopped.err ≠ 0#8 ∧ (0x0101#16 : CmdWord) ≠ 0x0100#16 ∧
    (stopped.issueFirst 0x0101#16).pending = .cmd 0x0101#16 :: [] ∧
    ({ stopped with pending := [.write 0 4 7] } : State).pending = .write 0 4 7 :: [] ∧
    ({ stopped with pending := [.read 0 1] } : State).pending = .read 0 1 :: [] := by decide

theorem witness_FaultIsSticky : stopped.err ≠ 0#8 ∧
    (∃ t, step (stopped.issueFirst 0x0101#16) = .next t ∧ ∀ rest,
      (stopped.issueFirst 0x0101#16).pending ≠ .cmd 0x0100#16 :: rest ∧
        (stopped.issueFirst 0x0101#16).pending ≠ .hardwareReset :: rest) ∧
    (∃ t, step (stopped.issueFirst 0x0100#16) = .next t ∧ (stopped.issueFirst 0x0100#16).pending = .cmd 0x0100#16 :: []) ∧
    ∃ t, step { stopped with pending := [.hardwareReset] } = .next t :=
  ⟨by decide, ⟨_, rfl, fun _ => ⟨by simp [State.issueFirst], by simp [State.issueFirst]⟩⟩, ⟨_, rfl, rfl⟩, ⟨_, rfl⟩⟩

theorem witness_IdleBlockKeepsItsState : base.pending = [] := rfl

theorem witness_HostWriteChangesOneElement : hostWritable base.cfg 0 7 = true ∧ hostWritable base.cfg 1 65535 = true ∧
    hostWritable base.cfg 6 8191 = true ∧ hostWritable base.cfg 1 65536 = false ∧ hostWritable base.cfg 2 0 = false ∧
    ({ base with pending := [.write 0 7 256] } : State).pending = .write 0 7 256 :: [] := by
  decide

theorem witness_HostReadChangesNothing : ({ base with pending := [.read 0 10] } : State).pending = .read 0 10 :: [] ∧
    spaceSize base.cfg 4 ≤ 256 ∧ spaceSize base.cfg 9 ≤ 0 ∧ 65535 < base.cfg.bufBytes ∧ 255 < base.cfg.keyBytes ∧
    spaceSize base.cfg 1 ≤ 65536 ∧ spaceSize base.cfg 6 ≤ 32 * 256 := by decide

theorem witness_StructuredElementLayout : 256 < 511 ∧ (nodeAt treeS1.node 256).freq < 2 ^ (treeS1.cfg.lenW + 8) ∧
    0 < treeS1.cfg.trieNodes := by decide

theorem witness_RstClearsAllButTheByteMemories : stopped.err ≠ 0#8 ∧ (∃ t, exec .nop stopped = .next t) ∧
    (stopped.issueFirst 0x0101#16).pending = .cmd 0x0101#16 :: [] := ⟨by decide, ⟨_, rfl⟩, rfl⟩

theorem witness_ResetValues : ∃ t, exec .rst stopped = .next t := ⟨_, rfl⟩

/-! ### Faults and retirement -/

theorem witness_FaultsArePrecise :
    overLength.err = 0#8 ∧ (∃ t, exec .fcnt overLength = .next t ∧ t.err ≠ 0#8) ∧
      ∃ t, exec .pack overLength = .next t ∧ t.err ≠ 0#8 :=
  ⟨by decide, ⟨_, rfl, by decide⟩, ⟨_, rfl, by decide⟩⟩

theorem witness_FaultCodesByCommand : overLength.err = 0#8 ∧ ∃ t, exec (.hash .output) overLength = .next t :=
  ⟨by decide, _, rfl⟩

theorem witness_RetiringCountsOne : (Instr.nop ≠ .rst) ∧ (∃ t, exec .nop base = .next t ∧ base.err = 0#8 ∧ t.err = 0#8) ∧
    ∃ t, exec .nop stopped = .next t ∧ stopped.err ≠ 0#8 :=
  ⟨by decide, ⟨_, rfl, by decide, by decide⟩, ⟨_, rfl, by decide⟩⟩

theorem witness_CommandsWriteOnlyWhatIsListed : ∃ t, exec .swap (input aaaab) = .next t := ⟨_, rfl⟩

/-! ### Control, hash, cipher -/

theorem witness_NopOnlyCounts : base.err = 0#8 ∧ stopped.err ≠ 0#8 := by decide

theorem witness_HardwareResetState : ({ stopped with pending := [.hardwareReset] } : State).pending = .hardwareReset :: [] :=
  rfl

theorem witness_SwapExchangesTheBuffers : fullLength.err = 0#8 ∧ fullLength.ilen ≤ fullLength.cfg.bufBytes ∧
    fullLength.olen ≤ fullLength.cfg.bufBytes ∧ overLength.err = 0#8 ∧ overLength.cfg.bufBytes < overLength.ilen := by decide

theorem witness_HashWritesTheDigest : fullLength.err = 0#8 ∧ fullLength.len .input ≤ fullLength.cfg.bufBytes ∧
    overLength.err = 0#8 ∧ overLength.cfg.bufBytes < overLength.len .output := by decide

theorem witness_HashSeesOneChangedByte :
    ∃ s' u', (input hello).err = 0#8 ∧ (input aaaab).cfg = (input hello).cfg ∧ (input hello).cfg.wellFormed = true ∧
      (input [0x41#8]).ilen = (input [0x42#8]).ilen ∧ (input [0x41#8]).ilen ≤ (input [0x41#8]).cfg.bufBytes ∧
      0 < (input [0x41#8]).ilen ∧ (input [0x41#8]).ibuf.read 0 ≠ (input [0x42#8]).ibuf.read 0 ∧
      (∀ i, i < (input [0x41#8]).ilen → i ≠ 0 → (input [0x41#8]).ibuf.read i = (input [0x42#8]).ibuf.read i) ∧
      exec (.hash .input) (input [0x41#8]) = .next s' ∧ exec (.hash .input) (input [0x42#8]) = .next u' := by
  refine ⟨_, _, by decide, rfl, by decide, rfl, by decide, by decide, by decide, ?_, rfl, rfl⟩
  intro i hi h
  exact absurd (Nat.lt_one_iff.1 hi) h

/-- The cipher statements, each clause: a full buffer and a full key; a buffer length over capacity; a key length over
capacity with the buffer length in range. -/
theorem witness_CiphfTransformsInPlace : fullLength.err = 0#8 ∧ fullLength.len .output ≤ fullLength.cfg.bufBytes ∧
    fullLength.klen.toNat ≤ fullLength.cfg.keyBytes ∧ overLength.cfg.bufBytes < overLength.len .input ∧
    ({ fullLength with klen := 257#16 } : State).cfg.keyBytes < ({ fullLength with klen := 257#16 } : State).klen.toNat := by
  decide

theorem witness_CiphiTransformsInPlace : (input hello).err = 0#8 ∧ (input hello).len .input ≤ (input hello).cfg.bufBytes ∧
    (input hello).klen.toNat ≤ (input hello).cfg.keyBytes ∧ overLength.cfg.bufBytes < overLength.len .output ∧
    ({ fullLength with klen := 257#16 } : State).cfg.keyBytes < ({ fullLength with klen := 257#16 } : State).klen.toNat := by
  decide

theorem witness_CipherInverseLaw : (input hello).err = 0#8 ∧ (input hello).len .input ≤ (input hello).cfg.bufBytes ∧
    (input hello).klen.toNat ≤ (input hello).cfg.keyBytes := by decide

theorem witness_LiteralInvolution : (input hello).err = 0#8 ∧ 0 < (input hello).len .input ∧
    (input hello).len .input ≤ (input hello).cfg.bufBytes ∧ (input hello).klen.toNat ≤ (input hello).cfg.keyBytes := by decide

/-! ### Encoder -/

theorem witness_FcntCountsTheInput : fullLength.err = 0#8 ∧ fullLength.cfg.wellFormed = true ∧
    fullLength.ilen ≤ fullLength.cfg.bufBytes ∧ overLength.cfg.wellFormed = true ∧
    overLength.cfg.bufBytes < overLength.ilen := by decide

theorem witness_FrequenciesSumToLength : ∃ t, (input aaaab).err = 0#8 ∧ (input aaaab).cfg.wellFormed = true ∧
    (input aaaab).ilen ≤ (input aaaab).cfg.bufBytes ∧ exec .fcnt (input aaaab) = .next t :=
  ⟨_, by decide, by decide, by decide, rfl⟩

/-- The frequencies of S1 fit LEN_W bits. -/
theorem counted_fits : ∀ i, i < 256 → Sparse.get 0 counted.freq i < 2 ^ counted.cfg.lenW := by decide +kernel

theorem witness_TbldBuildsTheArena : counted.err = 0#8 ∧ counted.cfg.wellFormed = true ∧
    ∀ i, i < 256 → Sparse.get 0 counted.freq i < 2 ^ counted.cfg.lenW := ⟨by decide, by decide, counted_fits⟩

theorem witness_TbldMergesTheLowestTwo : ∃ t, counted.err = 0#8 ∧ counted.cfg.wellFormed = true ∧
    (∀ i, i < 256 → Sparse.get 0 counted.freq i < 2 ^ counted.cfg.lenW) ∧ exec .tbld counted = .next t ∧
    treeValid t.node 256 = true :=
  ⟨_, by decide, by decide, counted_fits, rfl, by decide +kernel⟩

theorem witness_TbldDependsOnFreqAlone : ∃ s' u', counted.err = 0#8 ∧ ({ counted with ilen := 0 } : State).err = 0#8 ∧
    counted.cfg = ({ counted with ilen := 0 } : State).cfg ∧ counted.freq = ({ counted with ilen := 0 } : State).freq ∧
    exec .tbld counted = .next s' ∧ exec .tbld { counted with ilen := 0 } = .next u' :=
  ⟨_, _, by decide, by decide, rfl, rfl, rfl, rfl⟩

/-- A single Symbol of positive frequency, the last one, and none. -/
def countedOne : State := { base with freq := [(255, 3)], nsym := 3 }

theorem countedOne_fits : ∀ i, i < 256 → Sparse.get 0 countedOne.freq i < 2 ^ countedOne.cfg.lenW := by decide +kernel

theorem countedNone_fits : ∀ i, i < 256 → Sparse.get 0 base.freq i < 2 ^ base.cfg.lenW := fun _ _ => Nat.two_pow_pos _

/-- TBLD then CGEN on two Symbols, on one and on none: the cases of the number of leaves. -/
theorem leafCases : (∃ t, runs [.tbld, .cgen] counted t ∧ 2 ≤ t.nleaf.toNat) ∧
    (∃ t, runs [.tbld, .cgen] countedOne t ∧ t.nleaf = 1#9) ∧ ∃ t, runs [.tbld, .cgen] base t ∧ t.nleaf = 0#9 :=
  ⟨⟨_, ⟨_, rfl, _, rfl, rfl⟩, by decide +kernel⟩, ⟨_, ⟨_, rfl, _, rfl, rfl⟩, by decide +kernel⟩,
    ⟨_, ⟨_, rfl, _, rfl, rfl⟩, by decide +kernel⟩⟩

/-- The valid entries of S1's arena. -/
theorem treeS1_valid {i : Nat} (h : treeValid treeS1.node i = true) : i = 65 ∨ i = 66 ∨ i = 256 := by
  simp only [treeValid, nodeAt, Sparse.get, treeS1, nodesS1, Sparse.find?] at h
  split_ifs at h with h₁ h₂ h₃
  · exact .inl h₁
  · exact .inr (.inl h₂)
  · exact .inr (.inr h₃)
  · exact absurd h (by decide)

theorem treeS1_treeOk : treeS1.TreeOk where
  leaf := by
    intro i hi h
    rcases treeS1_valid h with rfl | rfl | rfl
    · decide
    · decide
    · omega
  inner := by
    intro i hi h
    rcases treeS1_valid h with rfl | rfl | rfl
    · omega
    · omega
    · decide
  owner := by
    intro i j a b hi hj h h' e
    rcases treeS1_valid h with rfl | rfl | rfl
    · omega
    · omega
    · rcases treeS1_valid h' with rfl | rfl | rfl
      · omega
      · omega
      · revert a b
        decide
  root := .inr (by decide)

theorem soleLeaf_valid {i : Nat} (h : treeValid soleLeaf.node i = true) : i = 65 := by
  simp only [treeValid, nodeAt, Sparse.get, soleLeaf, Sparse.find?] at h
  split_ifs at h with h₁
  · exact h₁
  · exact absurd h (by decide)

theorem soleLeaf_treeOk : soleLeaf.TreeOk where
  leaf := by
    intro i hi h
    rcases soleLeaf_valid h with rfl
    decide
  inner := by
    intro i hi h
    rcases soleLeaf_valid h with rfl
    omega
  owner := by
    intro i j a b hi hj h h' e
    rcases soleLeaf_valid h with rfl
    omega
  root := .inr (by decide)

theorem base_treeOk : base.TreeOk where
  leaf := fun _ _ h => absurd h Bool.false_ne_true
  inner := fun _ _ h => absurd h Bool.false_ne_true
  owner := fun _ _ _ _ _ _ h => absurd h Bool.false_ne_true
  root := .inl rfl

/-- Each of the three cases of CGEN. -/
theorem witness_CgenWritesTheRootToLeafPaths : (treeS1.err = 0#8 ∧ treeS1.TreeOk ∧ 256 ≤ treeS1.root.toNat ∧
      treeS1.root ≠ 0x1FF#9) ∧ (soleLeaf.err = 0#8 ∧ soleLeaf.TreeOk ∧ soleLeaf.root.toNat < 256) ∧
    (base.err = 0#8 ∧ base.TreeOk ∧ base.root = 0x1FF#9) :=
  ⟨⟨by decide, treeS1_treeOk, by decide, by decide⟩, ⟨by decide, soleLeaf_treeOk, by decide⟩,
    ⟨by decide, base_treeOk, rfl⟩⟩

theorem witness_GeneratedTableIsPrefixFree :
    (counted.err = 0#8 ∧ counted.cfg.wellFormed = true ∧
      ∀ i, i < 256 → Sparse.get 0 counted.freq i < 2 ^ counted.cfg.lenW) ∧
    (countedOne.err = 0#8 ∧ countedOne.cfg.wellFormed = true ∧
      ∀ i, i < 256 → Sparse.get 0 countedOne.freq i < 2 ^ countedOne.cfg.lenW) ∧
    (∃ t, runs [.tbld, .cgen] counted t ∧ 2 ≤ t.nleaf.toNat) ∧ ∃ t, runs [.tbld, .cgen] countedOne t ∧ t.nleaf = 1#9 :=
  ⟨⟨by decide, by decide, counted_fits⟩, ⟨by decide, by decide, countedOne_fits⟩, leafCases.1, leafCases.2.1⟩

theorem witness_WplIsTheTotalOfCodeBits : (input aaaab).err = 0#8 ∧ (input aaaab).cfg.wellFormed = true ∧
    (input aaaab).ilen ≤ (input aaaab).cfg.bufBytes := by decide

theorem witness_HuffmanStreamIsNoLongerThanTheInput : fullLength.err = 0#8 ∧ fullLength.cfg.wellFormed = true ∧
    fullLength.ilen ≤ fullLength.cfg.bufBytes := by decide

/-- "AAAAB" with the table of S1: five code bits, one byte, into a buffer of one byte. -/
def packable : State := { input aaaab with table := tableS1 }

theorem packable_covered : ∀ i, i < packable.ilen → 0 < packable.table.len (packable.ibuf.read i).toNat := by
  decide +kernel

theorem witness_PackWritesThePackedStream : packable.err = 0#8 ∧ packable.cfg.wellFormed = true ∧
    packable.ilen ≤ packable.cfg.bufBytes ∧
    (∀ i, i < packable.ilen → 0 < packable.table.len (packable.ibuf.read i).toNat) ∧
    (((List.range packable.ilen).flatMap fun i => packable.table.codeOf (packable.ibuf.read i).toNat).length + 7) / 8 ≤
      packable.cfg.bufBytes :=
  ⟨by decide, by decide, by decide, packable_covered, by decide +kernel⟩

/-- A block with buffers of one byte: a byte "A" whose Code has nine bits does not fit. -/
def tooLong : State :=
  { input [0x41#8] with cfg := { Config.default with bufBytes := 1 }, table := ⟨[(0x41, 9#8)], []⟩ }

/-- Each clause of PACK's faults. -/
theorem witness_PackFaultsInOrder : (overLength.err = 0#8 ∧ overLength.cfg.bufBytes < overLength.ilen) ∧
    ((input aaaab).err = 0#8 ∧ 0 < (input aaaab).ilen ∧ (input aaaab).ilen ≤ (input aaaab).cfg.bufBytes ∧
      (input aaaab).table.len ((input aaaab).ibuf.read 0).toNat = 0) ∧
    (tooLong.err = 0#8 ∧ tooLong.ilen ≤ tooLong.cfg.bufBytes ∧
      (∀ i, i < tooLong.ilen → 0 < tooLong.table.len (tooLong.ibuf.read i).toNat) ∧
      tooLong.cfg.bufBytes <
        (((List.range tooLong.ilen).map fun i => tooLong.table.len (tooLong.ibuf.read i).toNat).sum + 7) / 8) := by
  decide +kernel

/-! ### Code table and decoders -/

theorem witness_SetCodeThenCodeOf : 255 < 256 ∧ codeWellFormed (List.replicate 255 true) = true ∧
    codeWellFormed [false] = true := by decide +kernel

theorem witness_TrieHoldsTheCodes : packable.err = 0#8 := by decide

theorem witness_MapHoldsTheCodes : packable.err = 0#8 := by decide

theorem witness_TrieAndMapAgree : ∃ t u, packable.err = 0#8 ∧ exec .trie packable = .next t ∧ exec .mapb packable = .next u :=
  ⟨_, _, by decide, rfl, rfl⟩

/-- Each clause of DecodePre, at the values where they meet: N = 0; ILEN one over capacity; N one over 8 × ILEN; N one over
capacity. -/
theorem witness_DecodePreChecksInOrder : Instr.decm ∈ [Instr.dect, Instr.decm] ∧
    (overLength.err = 0#8 ∧ overLength.nsym = 0) ∧
    (({ overLength with nsym := 1 } : State).nsym ≠ 0 ∧ overLength.cfg.bufBytes < overLength.ilen) ∧
    (fullLength.ilen ≤ fullLength.cfg.bufBytes ∧ 8 * fullLength.ilen < ({ fullLength with nsym := 524289 } : State).nsym) ∧
    (({ fullLength with nsym := 65537 } : State).nsym ≤ 8 * fullLength.ilen ∧
      fullLength.cfg.bufBytes < ({ fullLength with nsym := 65537 } : State).nsym) := by decide

/-- The Codes of "AAAAB" in S1. -/
def codesS1 : List BitString := [[true], [true], [true], [true], [false]]

theorem decodeS1_decodable : decodable decodeS1 := by
  unfold decodable
  decide

/-- A Code of one bit has no proper prefix. -/
theorem isWord_single {find : BitString → Option Symbol} {b : Bool} {sym : Symbol} (h : find [b] = some sym) :
    isWord find [b] sym :=
  ⟨by simp, h, fun k h₀ h₁ => by simp at h₁; omega⟩

theorem decodeS1_trieWords : List.Forall₂ (isWord (trieFind decodeS1.trie)) codesS1 aaaab := by
  unfold codesS1 aaaab
  repeat' first | exact List.Forall₂.nil | refine List.Forall₂.cons (isWord_single (by decide)) ?_

theorem decodeS1_mapWords : List.Forall₂ (isWord (mapFind decodeS1.map)) codesS1 aaaab := by
  unfold codesS1 aaaab
  repeat' first | exact List.Forall₂.nil | refine List.Forall₂.cons (isWord_single (by decide)) ?_

theorem witness_DectEmitsTheSymbols : decodable decodeS1 ∧
    List.Forall₂ (isWord (trieFind decodeS1.trie)) codesS1 aaaab ∧ aaaab.length = decodeS1.nsym ∧
    streamBits decodeS1.ibuf decodeS1.ilen = codesS1.flatten ++ [false, false, false] :=
  ⟨decodeS1_decodable, decodeS1_trieWords, rfl, by decide⟩

theorem witness_DecmEmitsTheSymbols : decodable decodeS1 ∧
    List.Forall₂ (isWord (mapFind decodeS1.map)) codesS1 aaaab ∧ aaaab.length = decodeS1.nsym ∧
    streamBits decodeS1.ibuf decodeS1.ilen = codesS1.flatten ++ [false, false, false] :=
  ⟨decodeS1_decodable, decodeS1_mapWords, rfl, by decide⟩

/-- V34a: nothing is built, one Symbol is asked of the stream 00. -/
def unbuilt : State := { input [0x00#8] with nsym := 1 }

theorem unbuilt_noWord : noWord (trieFind unbuilt.trie) (List.replicate 8 false) ∧
    noWord (mapFind unbuilt.map) (List.replicate 8 false) := by
  constructor <;> intro k h₀ h₁
  · simp only [List.length_replicate] at h₁
    interval_cases k <;> decide
  · rfl

theorem witness_DecodeWalkFails : decodable unbuilt ∧ ([] : List Symbol).length < unbuilt.nsym ∧
    streamBits unbuilt.ibuf unbuilt.ilen = ([] : List BitString).flatten ++ List.replicate 8 false ∧
    List.Forall₂ (isWord (trieFind unbuilt.trie)) [] [] ∧ noWord (trieFind unbuilt.trie) (List.replicate 8 false) ∧
    List.Forall₂ (isWord (mapFind unbuilt.map)) [] [] ∧ noWord (mapFind unbuilt.map) (List.replicate 8 false) :=
  ⟨by unfold decodable; decide, by decide, by decide, .nil, unbuilt_noWord.1, .nil, unbuilt_noWord.2⟩

theorem witness_DecodersNeverReadTheEncoderTree : Instr.dect ∈ [Instr.trie, Instr.dect, Instr.mapb, Instr.decm] ∧
    ∃ t, exec .dect decodeS1 = .next t := ⟨by decide, _, rfl⟩

theorem witness_DecodersAreEquivalent : ({ unbuilt with table := tableV33 } : State).err = 0#8 := by decide

theorem witness_RoundTripThroughEitherDecoder : fullLength.err = 0#8 ∧ fullLength.cfg.wellFormed = true ∧
    fullLength.ilen ≤ fullLength.cfg.bufBytes ∧ base.err = 0#8 ∧ base.ilen ≤ base.cfg.bufBytes ∧
    [Instr.mapb, Instr.decm] ∈ [[Instr.trie, Instr.dect], [Instr.mapb, Instr.decm]] := by decide

/-- Two leaves, one leaf, the empty tree. -/
theorem witness_TrieMirrorsTheEncodingTree :
    (counted.err = 0#8 ∧ counted.cfg.wellFormed = true ∧
      ∀ i, i < 256 → Sparse.get 0 counted.freq i < 2 ^ counted.cfg.lenW) ∧
    (countedOne.err = 0#8 ∧ countedOne.cfg.wellFormed = true ∧
      ∀ i, i < 256 → Sparse.get 0 countedOne.freq i < 2 ^ countedOne.cfg.lenW) ∧
    (base.err = 0#8 ∧ base.cfg.wellFormed = true ∧ ∀ i, i < 256 → Sparse.get 0 base.freq i < 2 ^ base.cfg.lenW) ∧
    ((∃ t, runs [.tbld, .cgen] counted t ∧ 2 ≤ t.nleaf.toNat) ∧
      (∃ t, runs [.tbld, .cgen] countedOne t ∧ t.nleaf = 1#9) ∧ ∃ t, runs [.tbld, .cgen] base t ∧ t.nleaf = 0#9) :=
  ⟨⟨by decide, by decide, counted_fits⟩, ⟨by decide, by decide, countedOne_fits⟩,
    ⟨by decide, by decide, countedNone_fits⟩, leafCases⟩

/-! ### Host software and invariants -/

/-- Plain concatenation takes off tags of two bytes each. -/
theorem plainFraming_recovers : plainFraming.recovers tagsS4 := fun _ => rfl

theorem witness_EndToEndRoundTrip : stopped.cfg.wellFormed = true ∧ base.cfg = stopped.cfg ∧
    (∀ k, some [0x6B#8] = some k → k.length ≤ stopped.cfg.keyBytes) ∧ hello.length ≤ stopped.cfg.bufBytes ∧
    ([] : List Byte).length ≤ stopped.cfg.bufBytes ∧
    tagsS4.absent = false ∧ plainFraming.recovers tagsS4 ∧
    (plainFraming.header tagsS4 ++ hello).length ≤ stopped.cfg.bufBytes ∧
    (⟨[0x53#8], []⟩ : Tags).absent = false ∧ (⟨[0x53#8], []⟩ : Tags) ≠ tagsS4 := by
  refine ⟨by decide, rfl, fun k h => ?_, by decide, by decide, by decide, plainFraming_recovers, by decide, by decide,
    by decide⟩
  obtain rfl := Option.some.inj h
  decide

theorem emptyTable_padding (s k : Nat) : CodeTable.empty.bit s k = false := by
  simp [CodeTable.bit, CodeTable.empty, Sparse.get]

/-- A buffer of one byte, so that each clause is met where it meets the next: a refused text; nine Symbols in eight bits;
eight Symbols into one byte; one Symbol of an empty table. -/
theorem witness_DecompressFailsByName :
    let u : State := { base with cfg := { base.cfg with bufBytes := 1 } }
    u.cfg.wellFormed = true ∧ [0#8].length ≤ u.cfg.bufBytes ∧
    (∀ k, (none : Option (List Byte)) = some k → k.length ≤ u.cfg.keyBytes) ∧
    textToTable u.cfg.lenW [] = .error .formatError ∧ 9 < 2 ^ u.cfg.lenW ∧
    Sparse.wf 0#8 256 CodeTable.empty.clen = true ∧ Sparse.wf 0#8 8192 CodeTable.empty.cbits = true ∧
    (∀ s k, s < 256 → CodeTable.empty.len s ≤ k → k < 256 → CodeTable.empty.bit s k = false) ∧
    8 * [0#8].length < 9 ∧ (8 ≤ 8 * [0#8].length ∧ u.cfg.bufBytes < 8) ∧
    (1 ≤ 8 * [0#8].length ∧ 1 ≤ u.cfg.bufBytes) ∧ ∀ s, s < 256 → CodeTable.empty.len s = 0 :=
  ⟨by decide, by decide, fun _ h => (Option.some_ne_none _ h.symm).elim, rfl, by decide, rfl, rfl,
    fun s k _ _ _ => emptyTable_padding s k, by decide, by decide, by decide, fun _ _ => rfl⟩

theorem witness_IbufDirectiveLoadsTheBuffer : base.cfg.wellFormed = true ∧ aaaab.length ≤ base.cfg.bufBytes ∧
    ([] : List Byte).length ≤ base.cfg.bufBytes := by decide

theorem tableS1_padding : ∀ s k, s < 256 → tableS1.len s ≤ k → k < 256 → tableS1.bit s k = false := by
  intro s k _ hl hk
  by_cases h : 32 * s + k / 8 = 2080
  · have hs : s = 65 := by omega
    subst hs
    have hk : k < 8 := by omega
    have hl : 1 ≤ k := hl
    interval_cases k <;> decide
  · have h' : Sparse.get 0#8 tableS1.cbits (32 * s + k / 8) = 0#8 := by
      simp [Sparse.get, tableS1, Sparse.find?, h]
    simp [CodeTable.bit, h']

theorem witness_TextReaderInvertsTheWriter : 5 < 2 ^ 32 ∧ Sparse.wf 0#8 256 tableS1.clen = true ∧
    Sparse.wf 0#8 8192 tableS1.cbits = true ∧
    ∀ s k, s < 256 → tableS1.len s ≤ k → k < 256 → tableS1.bit s k = false :=
  ⟨by decide, by decide, by decide, tableS1_padding⟩

theorem witness_ResetSatisfiesTheInvariant : { Config.default with lenW := 8, bufBytes := 255 }.wellFormed = true := by decide

/-- A state with pending host steps that satisfies the invariant: the reset state would do as well, but a step from it is
idle. -/
def ready : State := { base with pending := [.cmd 0x2100#16, .write 0 4 5] }

theorem ready_inv : ready.Inv where
  config := by decide
  widths := ⟨by decide, by decide, by decide, by decide, by decide, fun _ => Nat.two_pow_pos _, fun _ => Nat.two_pow_pos _⟩
  canonical := ⟨by decide, by decide, by decide, by decide, by decide, by decide, by decide, by decide, by decide⟩
  registers := ⟨by decide, .inl rfl, by decide, by decide, by decide, by decide, fun _ => rfl,
    fun _ b => .inl (by cases b <;> rfl), fun _ _ => rfl⟩
  tree := ⟨fun _ _ h => absurd h Bool.false_ne_true, fun _ _ h => absurd h Bool.false_ne_true,
    fun _ _ _ _ _ _ h => absurd h Bool.false_ne_true, .inl rfl⟩
  draws := ⟨by decide, by decide⟩

theorem witness_StepKeepsMemoriesCanonical : ∃ t, ready.cfg.wellFormed = true ∧ ready.Canonical ∧ step ready = .next t :=
  ⟨_, ready_inv.config, ready_inv.canonical, rfl⟩

theorem witness_StepKeepsRegisterInvariants : ∃ t, ready.Inv ∧ step ready = .next t := ⟨_, ready_inv, rfl⟩

theorem witness_InvariantStepNeverStops : ready.Inv := ready_inv

end Sys2Proof.Tests
end

/-! PROOFS. The invariant of every reachable state, kept by every step: one lemma for each update of the state, one for
each command's effect, and the loops of TBLD, CGEN and TRIE that build what the invariant speaks of. -/

namespace Sys2Proof.Machine

/-! ### Sparse arrays -/

/-- Outside its space an array reads as cleared. -/
theorem Sparse.get_of_ge {α : Type} [DecidableEq α] {d : α} {n : Nat} {m : Sparse α} {i : Nat}
    (h : Sparse.wf d n m = true) (hi : n ≤ i) : Sparse.get d m i = d := by
  have hout : ∀ e ∈ m, e.1 ≠ i := fun e he => by
    have := (((Sparse.wf_iff d n m).1 h).2 e he).1
    omega
  clear h
  induction m with
  | nil => rfl
  | cons e m ih =>
    have hne : i ≠ e.1 := (hout e List.mem_cons_self).symm
    simpa [Sparse.get, Sparse.find?, hne] using ih fun e he => hout e (List.mem_cons_of_mem _ he)

theorem Sparse.length_put_le {α : Type} (m : Sparse α) (i : Nat) (v : α) :
    (Sparse.put m i v).length ≤ m.length + 1 := by
  induction m with
  | nil => simp [Sparse.put]
  | cons e m ih =>
    obtain ⟨j, u⟩ := e
    simp only [Sparse.put]
    split_ifs <;> simp
    omega

/-! ### The parameters -/

theorem Config.bufBytes_lt {c : Config} (h : c.wellFormed = true) : c.bufBytes < 2 ^ c.lenW := by
  have hpos : 0 < 2 ^ c.lenW := Nat.two_pow_pos _
  simp only [Config.wellFormed, Bool.and_eq_true, decide_eq_true_eq] at h
  omega

theorem Config.trieNodes_ge {c : Config} (h : c.wellFormed = true) : 65281 ≤ c.trieNodes := by
  simp only [Config.wellFormed, Bool.and_eq_true, decide_eq_true_eq] at h
  omega

/-! ### The invariant after each update of the state -/

/-- Both arrays of a code table in canonical form (R60). -/
def CodeTable.Canonical (tab : CodeTable) : Prop :=
  Sparse.wf 0#8 256 tab.clen = true ∧ Sparse.wf 0#8 8192 tab.cbits = true

/-- FREQ in canonical form, its counters `w` bits wide (R11, R38). -/
def FreqOk (w : Nat) (f : Sparse Nat) : Prop := Sparse.wf 0 256 f = true ∧ ∀ i, Sparse.get 0 f i < 2 ^ w

theorem Cause.code_ne_zero (c : Cause) : c.code ≠ 0#8 := by cases c <;> decide

/-- ESTOP is 1 exactly when ERR is not 0, whatever the state (R22). -/
theorem State.status_estop (s : State) : s.status.getLsbD 1 = true ↔ s.err ≠ 0#8 := by
  by_cases h : s.err = 0#8 <;> simp [State.status, State.estop, h]

section Updates

variable {s : State}

theorem State.Inv.withPending (h : s.Inv) (p : List HostStep) : { s with pending := p }.Inv :=
  ⟨h.config, { h.widths with }, { h.canonical with }, { h.registers with }, { h.tree with }, { h.draws with }⟩

theorem State.Inv.withReplies (h : s.Inv) (r : List Nat) : { s with replies := r }.Inv :=
  ⟨h.config, { h.widths with }, { h.canonical with }, { h.registers with }, { h.tree with }, { h.draws with }⟩

theorem State.Inv.retire (h : s.Inv) : s.retire.Inv :=
  ⟨h.config, { h.widths with }, { h.canonical with }, { h.registers with }, { h.tree with }, { h.draws with }⟩

/-- A fault keeps the invariant: ERR is no longer 0, so EINFO may hold the info. -/
theorem State.Inv.raise (h : s.Inv) (r : Raised) : (s.raise r).Inv where
  config := h.config
  widths := { h.widths with einfo := trunc_lt _ _ }
  canonical := { h.canonical with }
  registers := { h.registers with
    estop := State.status_estop _
    einfo := fun he => absurd he r.cause.code_ne_zero }
  tree := { h.tree with }
  draws := { h.draws with }

/-- The new draw of OBUF is none that IBUF or KEY holds, since theirs are made already. -/
theorem State.Inv.loseOutput (h : s.Inv) : s.loseOutput.Inv where
  config := h.config
  widths := { h.widths with olen := Nat.two_pow_pos _ }
  canonical := { h.canonical with obuf := ⟨rfl, rfl⟩ }
  registers := { h.registers with olen := Nat.zero_le _ }
  tree := { h.tree with }
  draws := by
    obtain ⟨⟨hi, _, hk⟩, _, hik, _⟩ := h.draws
    constructor <;> simp only [State.ibuf_loseOutput, State.obuf_loseOutput, State.key_loseOutput,
      State.draws_loseOutput] <;> omega

/-- The reset value of the registers and tables satisfies the invariant, whatever byte memories stand beside it (R49,
R50). -/
theorem State.Inv.ofReset {c : Config} {d : Nat} {t : State} (hc : c.wellFormed = true)
    (ht : t = { State.afterReset c d with
      ibuf := t.ibuf, obuf := t.obuf, key := t.key, pending := t.pending, replies := t.replies, draws := t.draws })
    (ibuf : t.ibuf.wf = true ∧ t.ibuf.within c.bufBytes = true)
    (obuf : t.obuf.wf = true ∧ t.obuf.within c.bufBytes = true)
    (key : t.key.wf = true ∧ t.key.within c.keyBytes = true) (hd : t.DrawsOk) : t.Inv := by
  rw [ht]
  exact {
    config := hc
    widths := ⟨Nat.two_pow_pos _, Nat.two_pow_pos _, Nat.two_pow_pos _, Nat.two_pow_pos _, Nat.two_pow_pos _,
      fun _ => Nat.two_pow_pos _, fun _ => Nat.two_pow_pos _⟩
    canonical := ⟨ibuf, obuf, key, rfl, rfl, rfl, rfl, rfl, rfl⟩
    registers := ⟨Nat.zero_le _, .inl rfl, by simp [State.afterReset], by simp [State.afterReset],
      by simp [State.afterReset], State.status_estop _, fun _ => rfl, fun _ b => .inl (by cases b <;> rfl),
      fun _ _ => rfl⟩
    tree := ⟨fun _ _ h => absurd h Bool.false_ne_true, fun _ _ h => absurd h Bool.false_ne_true,
      fun _ _ _ _ _ _ h => absurd h Bool.false_ne_true, .inl rfl⟩
    draws := { hd with } }

theorem State.Inv.clearAll (h : s.Inv) : s.clearAll.Inv :=
  .ofReset h.config rfl h.canonical.ibuf h.canonical.obuf h.canonical.key { h.draws with }

theorem State.Inv.hardwareReset (h : s.Inv) : s.hardwareReset.Inv :=
  .ofReset (d := s.draws) h.config rfl ⟨rfl, rfl⟩ ⟨rfl, rfl⟩ ⟨rfl, rfl⟩ (by
    constructor <;> simp only [State.ibuf_hardwareReset, State.obuf_hardwareReset, State.key_hardwareReset,
      State.draws_hardwareReset] <;> omega)

theorem State.Inv.withLengths (h : s.Inv) {i n : Nat} (hi : i < 2 ^ s.cfg.lenW) (hn : n < 2 ^ s.cfg.lenW)
    (k : BitVec 16) : { s with ilen := i, nsym := n, klen := k }.Inv :=
  ⟨h.config, { h.widths with ilen := hi, nsym := hn }, { h.canonical with }, { h.registers with }, { h.tree with },
    { h.draws with }⟩

/-- Writing OBUF and OLEN (R26): PACK, DECT and DECM end so. -/
theorem State.Inv.withOutput (h : s.Inv) {m : Memory} {n : Nat} (hm : m.wf = true)
    (hw : m.within s.cfg.bufBytes = true) (hd : m.draw = s.obuf.draw) (hn : n ≤ s.cfg.bufBytes) :
    { s with obuf := m, olen := n }.Inv where
  config := h.config
  widths := { h.widths with olen := hn.trans_lt (Config.bufBytes_lt h.config) }
  canonical := { h.canonical with obuf := ⟨hm, hw⟩ }
  registers := { h.registers with olen := hn }
  tree := { h.tree with }
  draws := ⟨by simpa only [hd] using h.draws.made, by simpa only [hd] using h.draws.apart⟩

theorem State.Inv.withInput (h : s.Inv) {m : Memory} (hm : m.wf = true) (hw : m.within s.cfg.bufBytes = true)
    (hd : m.draw = s.ibuf.draw) : { s with ibuf := m }.Inv :=
  ⟨h.config, { h.widths with }, { h.canonical with ibuf := ⟨hm, hw⟩ }, { h.registers with }, { h.tree with },
    ⟨by simpa only [hd] using h.draws.made, by simpa only [hd] using h.draws.apart⟩⟩

theorem State.Inv.withKey (h : s.Inv) {m : Memory} (hm : m.wf = true) (hw : m.within s.cfg.keyBytes = true)
    (hd : m.draw = s.key.draw) : { s with key := m }.Inv :=
  ⟨h.config, { h.widths with }, { h.canonical with key := ⟨hm, hw⟩ }, { h.registers with }, { h.tree with },
    ⟨by simpa only [hd] using h.draws.made, by simpa only [hd] using h.draws.apart⟩⟩

theorem State.Inv.setHash (h : s.Inv) (v : BitVec 64) (b : BufSel) : (s.setHash v b).Inv := by
  cases b <;>
    exact ⟨h.config, { h.widths with }, { h.canonical with }, { h.registers with }, { h.tree with },
      { h.draws with }⟩

theorem State.Inv.withFreq (h : s.Inv) {f : Sparse Nat} (hf : FreqOk s.cfg.lenW f) : { s with freq := f }.Inv :=
  ⟨h.config, { h.widths with freq := hf.2 }, { h.canonical with freq := hf.1 }, { h.registers with }, { h.tree with },
    { h.draws with }⟩

theorem State.Inv.withTable (h : s.Inv) {t : CodeTable} {w : Nat} (ht : t.Canonical)
    (hw : w < 2 ^ (s.cfg.lenW + 16)) : { s with table := t, wpl := w }.Inv :=
  ⟨h.config, { h.widths with wpl := hw }, { h.canonical with clen := ht.1, cbits := ht.2 }, { h.registers with },
    { h.tree with }, { h.draws with }⟩

theorem State.Inv.withMap (h : s.Inv) {m : Sparse Symbol} (hm : Sparse.rising m = true) (hl : m.length ≤ 256) :
    { s with map := m, mcnt := BitVec.ofNat 9 m.length }.Inv :=
  ⟨h.config, { h.widths with }, { h.canonical with map := hm },
    { h.registers with mcnt := (BitVec.toNat_ofNat _ _).trans_le ((Nat.mod_le _ _).trans hl) }, { h.tree with },
    { h.draws with }⟩

end Updates

/-! ### The wrappers of a command -/

/-- A command keeps the invariant if its effect does: a fault and error-stop do so anyway. -/
theorem command_keeps_inv {body : State → Except Raised State} {s : State} (h : s.Inv)
    (hb : ∀ t, body s = .ok t → t.Inv) : ∃ t, command body s = .next t ∧ t.Inv := by
  obtain ⟨t, ht⟩ := command_total body s
  refine ⟨t, ht, ?_⟩
  obtain ⟨-, rfl⟩ | ⟨-, u, hu, rfl⟩ | ⟨-, r, -, rfl⟩ := command_cases ht
  · exact h
  · exact (hb u hu).retire
  · exact h.raise r

theorem outputCommand_keeps_inv {body : State → Except Raised State} {s : State} (h : s.Inv)
    (hb : ∀ t, body s = .ok t → t.Inv) : ∃ t, outputCommand body s = .next t ∧ t.Inv := by
  obtain ⟨t, ht⟩ := outputCommand_total body s
  refine ⟨t, ht, ?_⟩
  obtain ⟨-, rfl⟩ | ⟨-, u, hu, rfl⟩ | ⟨-, r, -, rfl⟩ := outputCommand_cases ht
  · exact h
  · exact (hb u hu).retire
  · exact h.loseOutput.raise r

/-! ### SWAP, the ciphers, HASH, FCNT -/

section Effects

variable {s t : State}

theorem swapBuffers_keeps_inv (h : s.Inv) (ht : swapBuffers s = .ok t) : t.Inv := by
  unfold swapBuffers at ht
  split_ifs at ht with hlen
  cases ht
  exact {
    config := h.config
    widths := { h.widths with ilen := h.widths.olen, olen := h.widths.ilen }
    canonical := { h.canonical with ibuf := h.canonical.obuf, obuf := h.canonical.ibuf }
    registers := { h.registers with olen := Nat.le_of_not_lt hlen }
    tree := { h.tree with }
    draws := by
      obtain ⟨⟨hi, ho, hk⟩, hio, hik, hok⟩ := h.draws
      exact ⟨⟨ho, hi, hk⟩, hio.symm, hok, hik⟩ }

/-- Writing bytes within the selected buffer (R83). -/
theorem State.Inv.writeBuf (h : s.Inv) (b : BufSel) {vs : List Byte} (hlen : vs.length ≤ s.cfg.bufBytes) :
    (s.setBuf ((s.buf b).writeBytes 0 vs) b).Inv := by
  have hfit : 0 + vs.length ≤ s.cfg.bufBytes := by omega
  cases b with
  | input =>
    obtain ⟨hwf, hin⟩ := h.canonical.ibuf
    exact h.withInput (Memory.wf_writeBytes 0 vs hwf) (Memory.within_writeBytes 0 vs hin hfit)
      (Memory.draw_writeBytes _ _ _)
  | output =>
    obtain ⟨hwf, hin⟩ := h.canonical.obuf
    exact h.withOutput (Memory.wf_writeBytes 0 vs hwf) (Memory.within_writeBytes 0 vs hin hfit)
      (Memory.draw_writeBytes _ _ _) h.registers.olen

theorem cipherBuffer_keeps_inv (f : State → Nat → Byte → Byte) (b : BufSel) (h : s.Inv)
    (ht : cipherBuffer f b s = .ok t) : t.Inv := by
  unfold cipherBuffer at ht
  split_ifs at ht with hlen hkey
  cases ht
  exact h.writeBuf b (by simpa using hlen)

theorem hashBuffer_keeps_inv (b : BufSel) (h : s.Inv) (ht : hashBuffer b s = .ok t) : t.Inv := by
  unfold hashBuffer at ht
  split_ifs at ht with hlen
  cases ht
  exact h.setHash _ b

theorem FreqOk.empty (w : Nat) : FreqOk w [] := ⟨Sparse.wf_nil _ _, fun _ => Nat.two_pow_pos _⟩

theorem FreqOk.set {w : Nat} {f : Sparse Nat} {i : Nat} (hf : FreqOk w f) (hi : i < 256) (v : Nat) :
    FreqOk w (Sparse.set 0 f i (trunc w v)) := by
  obtain ⟨hwf, hlt⟩ := hf
  refine ⟨Sparse.wf_set _ hwf hi, fun j => ?_⟩
  rw [Sparse.get_set]
  split_ifs
  · exact trunc_lt w v
  · exact hlt j

theorem FreqOk.countBytes {w : Nat} (bs : List Byte) {f : Sparse Nat} (hf : FreqOk w f) :
    FreqOk w (bs.foldl (countByte w) f) := by
  induction bs generalizing f with
  | nil => exact hf
  | cons b bs ih => exact ih (hf.set b.isLt _)

theorem countFrequencies_keeps_inv (h : s.Inv) (ht : countFrequencies s = .ok t) : t.Inv := by
  unfold countFrequencies at ht
  split_ifs at ht with hlen
  cases ht
  exact (h.withFreq ((FreqOk.empty _).countBytes _)).withLengths h.widths.ilen (trunc_lt _ _) s.klen

/-! ### PACK, DECT, DECM -/

theorem CodeTable.length_codeOf (tab : CodeTable) (n : Nat) : (tab.codeOf n).length = tab.len n := by
  simp [CodeTable.codeOf]

theorem CodeTable.len_le (tab : CodeTable) (n : Nat) : tab.len n ≤ 255 :=
  Nat.le_of_lt_succ (Sparse.get 0#8 tab.clen n).isLt

theorem length_codeBits (tab : CodeTable) (bs : List Byte) : (codeBits tab bs).length = totalBits tab bs := by
  simp [codeBits, totalBits, List.length_flatMap, CodeTable.length_codeOf]

/-- The pack phase puts out one byte for every eight bits begun (R110). -/
theorem length_packBits (c : BitString) (acc : BitVec 8) {nb : Nat} (h : nb < 8) :
    (packBits c acc nb).length = ceilDiv (nb + c.length) 8 := by
  induction c generalizing acc nb with
  | nil =>
    unfold packBits ceilDiv
    split_ifs <;> simp <;> omega
  | cons b c ih =>
    unfold packBits
    simp only [List.length_cons]
    split_ifs with hfull
    · rw [List.length_cons, ih _ (by omega)]
      unfold ceilDiv
      omega
    · rw [ih _ (by omega), Nat.add_right_comm, Nat.add_assoc]

theorem State.Inv.output (h : s.Inv) {out : List Byte} {n : Nat} (hlen : out.length ≤ s.cfg.bufBytes)
    (hn : n ≤ s.cfg.bufBytes) :
    { s with obuf := s.obuf.writeBytes 0 out, olen := trunc s.cfg.lenW n }.Inv := by
  obtain ⟨hwf, hin⟩ := h.canonical.obuf
  exact h.withOutput (Memory.wf_writeBytes 0 out hwf) (Memory.within_writeBytes 0 out hin (by omega))
    (Memory.draw_writeBytes _ _ _) ((Nat.mod_le _ _).trans hn)

theorem packBuffer_keeps_inv (h : s.Inv) (ht : packBuffer s = .ok t) : t.Inv := by
  unfold packBuffer at ht
  split_ifs at ht with hlen
  simp only at ht
  split at ht
  · cases ht
  · split_ifs at ht with hneed
    cases ht
    have hout : (packBits (codeBits s.table (s.ibuf.bytes s.ilen)) 0#8 0).length ≤ s.cfg.bufBytes := by
      rw [length_packBits _ _ (by omega), length_codeBits, Nat.zero_add]
      omega
    exact h.output hout hout

theorem decodeWith_keeps_inv {loop : State → BitString → Nat → Except Nat (List Symbol)}
    (hloop : ∀ u bits need out, loop u bits need = .ok out → out.length = need) (h : s.Inv)
    (ht : decodeWith loop s = .ok t) : t.Inv := by
  obtain ⟨-, rfl⟩ | ⟨-, -, -, hfit, out, hout, rfl⟩ := decodeWith_ok ht
  · obtain ⟨hwf, hin⟩ := h.canonical.obuf
    exact h.withOutput hwf hin rfl (Nat.zero_le _)
  · exact h.output ((hloop _ _ _ _ hout).trans_le hfit) hfit

/-! ### MAPB -/

/-- One Symbol makes the map longer by at most one Code (R126). -/
theorem mapAddSymbol_ok (tab : CodeTable) {m : Sparse Symbol} (n : Nat) (hm : Sparse.rising m = true) :
    Sparse.rising (mapAddSymbol tab m n) = true ∧ (mapAddSymbol tab m n).length ≤ m.length + 1 := by
  unfold mapAddSymbol mapSet
  split_ifs
  · exact ⟨Sparse.rising_put _ _ hm, Sparse.length_put_le _ _ _⟩
  · exact ⟨hm, Nat.le_succ _⟩

theorem mapAddSymbols_ok (tab : CodeTable) (syms : List Nat) {m : Sparse Symbol} (hm : Sparse.rising m = true) :
    Sparse.rising (syms.foldl (mapAddSymbol tab) m) = true ∧
      (syms.foldl (mapAddSymbol tab) m).length ≤ m.length + syms.length := by
  induction syms generalizing m with
  | nil => exact ⟨hm, Nat.le_refl _⟩
  | cons n syms ih =>
    obtain ⟨hr, hl⟩ := mapAddSymbol_ok tab n hm
    obtain ⟨hr', hl'⟩ := ih hr
    refine ⟨hr', ?_⟩
    rw [List.foldl_cons, List.length_cons]
    omega

theorem buildMap_keeps_inv (h : s.Inv) (ht : buildMap s = .ok t) : t.Inv := by
  cases ht
  obtain ⟨hr, hl⟩ := mapAddSymbols_ok s.table (List.range 256) (m := []) rfl
  exact h.withMap hr (by simpa using hl)

end Effects

/-! ### CGEN -/

/-- What CGEN has written so far is in form: its table, and a path length of `ww` bits. -/
def CodeGen.Ok (ww : Nat) (g : CodeGen) : Prop := g.table.Canonical ∧ g.wpl < 2 ^ ww

theorem CodeTable.Canonical.setCode {tab : CodeTable} (h : tab.Canonical) {n : Nat} (hn : n < 256) (c : BitString) :
    (tab.setCode n c).Canonical := by
  obtain ⟨hl, hb⟩ := h
  refine ⟨Sparse.wf_set _ hl hn, ?_⟩
  dsimp only [CodeTable.setCode]
  refine List.foldlRecOn (motive := fun m => Sparse.wf 0#8 8192 m = true) (List.range 32) _ hb fun m hm j hj => ?_
  have hj : j < 32 := List.mem_range.1 hj
  exact Sparse.wf_set _ hm (by omega)

theorem CodeGen.Ok.giveCode {ww : Nat} {g : CodeGen} (h : g.Ok ww) (nd : TreeNode) (path : BitString) :
    (giveCode ww nd path g).Ok ww :=
  ⟨h.1.setCode nd.sym.isLt path, trunc_lt _ _⟩

/-- The walk from a node of the tree finds a node wherever it goes, and ends: an Internal node's index is above 255 and
above its children's, so `n - 254` nodes are on a path from node `n` at most (R106). -/
theorem assignCodes_total {s : State} (h : s.TreeOk) (ww : Nat) {fuel n : Nat} {path : BitString} {g : CodeGen}
    (hv : treeValid s.node n = true) (hpos : 0 < fuel) (hfuel : n < fuel + 255) (hg : g.Ok ww) :
    ∃ g', assignCodes ww s.node fuel n path g = some g' ∧ g'.Ok ww := by
  induction fuel generalizing n path g with
  | zero => omega
  | succ fuel ih =>
    have hvalid : (nodeAt s.node n).valid = true := hv
    rcases Nat.lt_or_ge n 256 with hleaf | hinner
    · obtain ⟨htag, -⟩ := h.leaf n hleaf hv
      exact ⟨giveCode ww (nodeAt s.node n) path g, by simp [assignCodes, hvalid, htag], hg.giveCode _ _⟩
    · obtain ⟨-, htag, hchild⟩ := h.inner n hinner hv
      obtain ⟨hleft, hleftValid⟩ := hchild false
      obtain ⟨hright, hrightValid⟩ := hchild true
      obtain ⟨g₁, h₁, hg₁⟩ := ih (path := path ++ [false]) hleftValid (by omega) (by omega) hg
      obtain ⟨g₂, h₂, hg₂⟩ := ih (path := path ++ [true]) hrightValid (by omega) (by omega) hg₁
      refine ⟨g₂, ?_, hg₂⟩
      simp only [treeChild, Bool.false_eq_true, if_false, if_true] at h₁ h₂
      simp [assignCodes, hvalid, htag, h₁, h₂]

theorem generateCodes_total {s : State} (h : s.TreeOk) :
    ∃ g, generateCodes s = some g ∧ g.Ok (s.cfg.lenW + 16) := by
  have hstart : CodeGen.Ok (s.cfg.lenW + 16) ⟨CodeTable.empty, 0⟩ :=
    ⟨⟨Sparse.wf_nil _ _, Sparse.wf_nil _ _⟩, Nat.two_pow_pos _⟩
  by_cases hnil : s.root = 0x1FF#9
  · exact ⟨_, by simp [generateCodes, hnil], hstart⟩
  · have hv : treeValid s.node s.root.toNat = true := h.root.resolve_left hnil
    have hvalid : (nodeAt s.node s.root.toNat).valid = true := hv
    have hroot : s.root.toNat ≤ 510 := by
      by_contra hgt
      exact hgt (h.inner s.root.toNat (by omega) hv).1
    cases htag : (nodeAt s.node s.root.toNat).tag with
    | false =>
      exact ⟨giveCode _ (nodeAt s.node s.root.toNat) [false] _, by simp [generateCodes, hnil, hvalid, htag],
        hstart.giveCode _ _⟩
    | true =>
      obtain ⟨g, hg, hok⟩ :=
        assignCodes_total h (s.cfg.lenW + 16) (fuel := 256) (path := []) hv (by omega) (by omega) hstart
      exact ⟨g, by simp [generateCodes, hnil, hvalid, htag, hg], hok⟩

/-- CGEN never ends in the fault `notATree` on an arena that holds trees (log entry 6). -/
theorem execCgen_keeps_inv {s : State} (h : s.Inv) : ∃ t, execCgen s = .next t ∧ t.Inv := by
  obtain ⟨g, hg, htable, hwpl⟩ := generateCodes_total h.tree
  by_cases he : s.err = 0#8
  · exact ⟨_, by simp only [execCgen, unlessStopped_running he, hg], (h.withTable htable hwpl).retire⟩
  · exact ⟨s, unlessStopped_stopped he, h⟩

/-! ### TBLD -/

theorem nodeAt_set (nodes : Sparse TreeNode) (i j : Nat) (nd : TreeNode) :
    nodeAt (Sparse.set TreeNode.cleared nodes i nd) j = if j = i then nd else nodeAt nodes j :=
  Sparse.get_set _ _ _ _ _

/-- The arena with the leaves planted: the Leaf of every Symbol listed, and the old entries elsewhere (R104). -/
theorem nodeAt_plantLeaves (freq : Sparse Nat) (syms : List Nat) (nodes : Sparse TreeNode) (i : Nat) :
    nodeAt (syms.foldl (fun m s => Sparse.set TreeNode.cleared m s (leafNode s (Sparse.get 0 freq s))) nodes) i =
      if i ∈ syms then leafNode i (Sparse.get 0 freq i) else nodeAt nodes i := by
  induction syms generalizing nodes with
  | nil => simp
  | cons s syms ih =>
    rw [List.foldl_cons, ih, nodeAt_set]
    by_cases hi : i = s
    · subst hi
      simp
    · simp [hi]

theorem lowest_mem {nodes : Sparse TreeNode} {q : List Nat} {a : Nat} (h : lowest nodes q = some a) : a ∈ q := by
  induction q generalizing a with
  | nil => simp [lowest] at h
  | cons i q ih =>
    unfold lowest at h
    split at h
    · cases h
      exact List.mem_cons_self
    · next j hj =>
      split_ifs at h
      · cases h
        exact List.mem_cons_of_mem _ (ih hj)
      · cases h
        exact List.mem_cons_self

/-- What `extract` answers: a member of the queue, and the queue without it. -/
theorem extract_eq_some {nodes : Sparse TreeNode} {q q' : List Nat} {a : Nat} (h : extract nodes q = some (a, q')) :
    a ∈ q ∧ q' = q.erase a := by
  unfold extract at h
  obtain ⟨b, hb, heq⟩ := Option.map_eq_some_iff.1 h
  cases heq
  exact ⟨lowest_mem hb, rfl⟩

/-- Trees over the leaves: what the arena of R42 is while it is built. Internal nodes stand from 256 up to below `n`,
each above two valid children of its own, created earlier. -/
structure Forest (fw : Nat) (nodes : Sparse TreeNode) (n : Nat) : Prop where
  canonical : Sparse.wf TreeNode.cleared 511 nodes = true
  freq : ∀ i, (nodeAt nodes i).freq < 2 ^ fw
  leaf : ∀ i, i < 256 → treeValid nodes i = true → (nodeAt nodes i).tag = false ∧ (nodeAt nodes i).sym.toNat = i
  inner : ∀ i, 256 ≤ i → treeValid nodes i = true → i < n ∧ (nodeAt nodes i).tag = true ∧
    ∀ d, treeChild nodes i d < i ∧ treeValid nodes (treeChild nodes i d) = true
  owner : ∀ i j c d, 256 ≤ i → 256 ≤ j → treeValid nodes i = true → treeValid nodes j = true →
    treeChild nodes i c = treeChild nodes j d → i = j ∧ c = d

/-- Node `i` is the root of a tree of the forest: no edge leads to it. -/
def IsRoot (nodes : Sparse TreeNode) (i : Nat) : Prop :=
  treeValid nodes i = true ∧ ∀ j d, 256 ≤ j → treeValid nodes j = true → treeChild nodes j d ≠ i

/-- The arena after the merge of the nodes `a` and `b` into a new Internal node `n` (R104). -/
def joined (fw : Nat) (nodes : Sparse TreeNode) (n a b : Nat) : Sparse TreeNode :=
  Sparse.set TreeNode.cleared nodes n (internalNode fw nodes a b)

section Merge

variable {fw : Nat} {nodes : Sparse TreeNode} {n a b i j : Nat}

theorem nodeAt_joined_new : nodeAt (joined fw nodes n a b) n = internalNode fw nodes a b :=
  Sparse.get_set_same _ _ _ _

theorem nodeAt_joined_other (h : i ≠ n) : nodeAt (joined fw nodes n a b) i = nodeAt nodes i :=
  Sparse.get_set_other _ _ _ h

theorem treeValid_joined_new : treeValid (joined fw nodes n a b) n = true := by
  rw [treeValid, nodeAt_joined_new]
  rfl

theorem treeValid_joined_other (h : i ≠ n) : treeValid (joined fw nodes n a b) i = treeValid nodes i := by
  rw [treeValid, nodeAt_joined_other h, treeValid]

theorem treeChild_joined_other (h : i ≠ n) (d : Bool) :
    treeChild (joined fw nodes n a b) i d = treeChild nodes i d := by
  rw [treeChild, nodeAt_joined_other h, treeChild]

theorem Forest.valid_lt (h : Forest fw nodes n) (hn : 256 ≤ n) (hv : treeValid nodes i = true) : i < n := by
  rcases Nat.lt_or_ge i 256 with hi | hi
  · omega
  · exact (h.inner i hi hv).1

theorem Forest.valid_joined (h : Forest fw nodes n) (hn : 256 ≤ n) (hv : treeValid nodes i = true) :
    treeValid (joined fw nodes n a b) i = true := by
  rwa [treeValid_joined_other (h.valid_lt hn hv).ne]

section Join

variable (h : Forest fw nodes n) (hn : 256 ≤ n ∧ n ≤ 510) (ha : IsRoot nodes a) (hb : IsRoot nodes b)

include h hn ha hb

/-- The children of the new node are the two nodes merged, the first extracted on the left (R104). -/
theorem treeChild_joined_new (d : Bool) : treeChild (joined fw nodes n a b) n d = if d then b else a := by
  have halt : a < n := h.valid_lt hn.1 ha.1
  have hblt : b < n := h.valid_lt hn.1 hb.1
  rw [treeChild, nodeAt_joined_new]
  cases d
  · exact Nat.mod_eq_of_lt (show a < 512 by omega)
  · exact Nat.mod_eq_of_lt (show b < 512 by omega)

/-- A child of the new node was the root of a tree. -/
theorem isRoot_child_new (d : Bool) : IsRoot nodes (treeChild (joined fw nodes n a b) n d) := by
  rw [treeChild_joined_new h hn ha hb]
  cases d
  · exact ha
  · exact hb

/-- The new node and the old ones share no child. -/
theorem child_ne_child_new (hj : 256 ≤ j) (hjn : j ≠ n) (hv : treeValid (joined fw nodes n a b) j = true)
    (c d : Bool) :
    treeChild (joined fw nodes n a b) j c ≠ treeChild (joined fw nodes n a b) n d := by
  rw [treeValid_joined_other hjn] at hv
  rw [treeChild_joined_other hjn]
  exact (isRoot_child_new h hn ha hb d).2 j c hj hv

/-- Every child, the new node's two among them, is an old node: no edge leads to the new one. -/
theorem child_joined_lt (hj : 256 ≤ j) (hv : treeValid (joined fw nodes n a b) j = true) (d : Bool) :
    treeChild (joined fw nodes n a b) j d < n := by
  rcases eq_or_ne j n with rfl | hjn
  · exact h.valid_lt hn.1 (isRoot_child_new h hn ha hb d).1
  · rw [treeValid_joined_other hjn] at hv
    obtain ⟨hlt, -, hchild⟩ := h.inner j hj hv
    rw [treeChild_joined_other hjn]
    exact (hchild d).1.trans hlt

/-- Merging two trees of a forest leaves a forest (R42 c, R104). -/
theorem Forest.join (hab : a ≠ b) : Forest fw (joined fw nodes n a b) (n + 1) where
  canonical := Sparse.wf_set _ h.canonical (by omega)
  freq i := by
    rcases eq_or_ne i n with rfl | hin
    · rw [nodeAt_joined_new]
      exact trunc_lt _ _
    · rw [nodeAt_joined_other hin]
      exact h.freq i
  leaf i hi hv := by
    have hin : i ≠ n := by omega
    rw [treeValid_joined_other hin] at hv
    rw [nodeAt_joined_other hin]
    exact h.leaf i hi hv
  inner i hi hv := by
    rcases eq_or_ne i n with rfl | hin
    · refine ⟨Nat.lt_succ_self i, by rw [nodeAt_joined_new]; rfl, fun d => ?_⟩
      exact ⟨child_joined_lt h hn ha hb hi hv d, h.valid_joined hn.1 (isRoot_child_new h hn ha hb d).1⟩
    · rw [treeValid_joined_other hin] at hv
      obtain ⟨hlt, htag, hchild⟩ := h.inner i hi hv
      rw [nodeAt_joined_other hin]
      refine ⟨hlt.trans (Nat.lt_succ_self n), htag, fun d => ?_⟩
      rw [treeChild_joined_other hin]
      exact ⟨(hchild d).1, h.valid_joined hn.1 (hchild d).2⟩
  owner i j c d hi hj hvi hvj heq := by
    by_cases hin : i = n <;> by_cases hjn : j = n
    · subst hin hjn
      rw [treeChild_joined_new h hn ha hb, treeChild_joined_new h hn ha hb] at heq
      refine ⟨rfl, ?_⟩
      cases c <;> cases d
      · rfl
      · exact absurd heq hab
      · exact absurd heq.symm hab
      · rfl
    · subst hin
      exact absurd heq.symm (child_ne_child_new h hn ha hb hj hjn hvj d c)
    · subst hjn
      exact absurd heq (child_ne_child_new h hn ha hb hi hin hvi c d)
    · rw [treeValid_joined_other hin] at hvi
      rw [treeValid_joined_other hjn] at hvj
      rw [treeChild_joined_other hin, treeChild_joined_other hjn] at heq
      exact h.owner i j c d hi hj hvi hvj heq

/-- The new node is the root of a tree. -/
theorem isRoot_joined_new : IsRoot (joined fw nodes n a b) n :=
  ⟨treeValid_joined_new, fun _ d hj hv => (child_joined_lt h hn ha hb hj hv d).ne⟩

/-- The roots that were not merged stay roots. -/
theorem isRoot_joined_other (hi : IsRoot nodes i) (hia : i ≠ a) (hib : i ≠ b) : IsRoot (joined fw nodes n a b) i := by
  refine ⟨h.valid_joined hn.1 hi.1, fun j d hj hv => ?_⟩
  rcases eq_or_ne j n with rfl | hjn
  · rw [treeChild_joined_new h hn ha hb]
    cases d
    · exact hia.symm
    · exact hib.symm
  · rw [treeValid_joined_other hjn] at hv
    rw [treeChild_joined_other hjn]
    exact hi.2 j d hj hv

end Join

end Merge

/-- The queue between two merges, after `k` of them: different roots of the forest in the arena. One member goes with
every merge, so there are at most 255 merges (R104). -/
structure QueueOk (fw : Nat) (nodes : Sparse TreeNode) (q : List Nat) (k : Nat) : Prop where
  forest : Forest fw nodes (256 + k)
  roots : ∀ i ∈ q, IsRoot nodes i
  nodup : q.Nodup
  size : q.length + k ≤ 256

theorem length_presentSymbols_le (freq : Sparse Nat) : (presentSymbols freq).length ≤ 256 :=
  (List.length_filter_le _ _).trans (by simp)

/-- The queue before the first merge: the leaves of the Symbols present (R104). -/
theorem queueOk_plantLeaves {fw : Nat} {freq : Sparse Nat} (hf : ∀ i, Sparse.get 0 freq i < 2 ^ fw) :
    QueueOk fw (plantLeaves freq (presentSymbols freq)) (presentSymbols freq) 0 := by
  have hlt : ∀ i ∈ presentSymbols freq, i < 256 := fun i hi => List.mem_range.1 (List.mem_of_mem_filter hi)
  have hat : ∀ i, nodeAt (plantLeaves freq (presentSymbols freq)) i =
      if i ∈ presentSymbols freq then leafNode i (Sparse.get 0 freq i) else TreeNode.cleared :=
    fun i => nodeAt_plantLeaves freq _ [] i
  have hvalid : ∀ i, treeValid (plantLeaves freq (presentSymbols freq)) i = true ↔ i ∈ presentSymbols freq := by
    intro i
    rw [treeValid, hat]
    split_ifs with hi <;> simp [hi, leafNode, TreeNode.cleared]
  have hnone : ∀ i, 256 ≤ i → ¬ treeValid (plantLeaves freq (presentSymbols freq)) i = true :=
    fun i hi hv => absurd (hlt i ((hvalid i).1 hv)) (by omega)
  have hforest : Forest fw (plantLeaves freq (presentSymbols freq)) 256 := {
    canonical := List.foldlRecOn (motive := fun m => Sparse.wf TreeNode.cleared 511 m = true) _ _
      (Sparse.wf_nil _ _) fun _ hm i hi => Sparse.wf_set _ hm ((hlt i hi).trans (by omega))
    freq := fun i => by
      rw [hat]
      split_ifs
      · exact hf i
      · exact Nat.two_pow_pos _
    leaf := fun i hi hv => by
      rw [hat, if_pos ((hvalid i).1 hv)]
      exact ⟨rfl, Nat.mod_eq_of_lt hi⟩
    inner := fun i hi hv => absurd hv (hnone i hi)
    owner := fun i _ _ _ hi _ hv => absurd hv (hnone i hi) }
  exact {
    forest := hforest
    roots := fun i hi => ⟨(hvalid i).2 hi, fun j _ hj hv => absurd hv (hnone j hj)⟩
    nodup := List.nodup_range.filter _
    size := length_presentSymbols_le freq }

/-- One merge: the two nodes extracted leave the queue and the new one enters it (R104). -/
theorem QueueOk.merge {fw : Nat} {nodes : Sparse TreeNode} {q : List Nat} {k a b : Nat} (h : QueueOk fw nodes q k)
    (ha : a ∈ q) (hb : b ∈ q.erase a) :
    QueueOk fw (joined fw nodes (256 + k) a b) ((q.erase a).erase b ++ [256 + k]) (k + 1) := by
  have hlen := List.length_erase_of_mem ha
  have hlen' := List.length_erase_of_mem hb
  have hpos := List.length_pos_of_mem hb
  have hsize := h.size
  have hn : 256 ≤ 256 + k ∧ 256 + k ≤ 510 := by omega
  have hra : IsRoot nodes a := h.roots a ha
  have hrb : IsRoot nodes b := h.roots b (List.mem_of_mem_erase hb)
  have hrest : ∀ i ∈ (q.erase a).erase b, i ∈ q ∧ i ≠ a ∧ i ≠ b := fun i hi => by
    obtain ⟨hib, hi⟩ := ((h.nodup.erase a).mem_erase_iff).1 hi
    obtain ⟨hia, hi⟩ := h.nodup.mem_erase_iff.1 hi
    exact ⟨hi, hia, hib⟩
  refine ⟨h.forest.join hn hra hrb (h.nodup.mem_erase_iff.1 hb).1.symm, fun i hi => ?_, ?_, ?_⟩
  · rcases List.mem_append.1 hi with hi | hi
    · obtain ⟨hiq, hia, hib⟩ := hrest i hi
      exact isRoot_joined_other h.forest hn hra hrb (h.roots i hiq) hia hib
    · rw [List.mem_singleton.1 hi]
      exact isRoot_joined_new h.forest hn hra hrb
  · refine List.nodup_append.2 ⟨(h.nodup.erase a).erase b, List.nodup_singleton _, fun i hi j hj => ?_⟩
    rw [List.mem_singleton.1 hj]
    exact (h.forest.valid_lt hn.1 (h.roots i (hrest i hi).1).1).ne
  · rw [List.length_append, List.length_singleton]
    omega

/-- The merges keep what every one of them keeps. -/
theorem QueueOk.mergeAll {fw : Nat} (fuel : Nat) {nodes : Sparse TreeNode} {q : List Nat} {k : Nat}
    (h : QueueOk fw nodes q k) :
    ∃ k', QueueOk fw (mergeAll fw fuel nodes q k).1 (mergeAll fw fuel nodes q k).2 k' := by
  induction fuel generalizing nodes q k with
  | zero => exact ⟨k, h⟩
  | succ fuel ih =>
    unfold Machine.mergeAll
    split
    · exact ⟨k, h⟩
    · next a q₁ ha =>
      obtain ⟨haq, rfl⟩ := extract_eq_some ha
      split
      · exact ⟨k, h⟩
      · next b q₂ hb =>
        obtain ⟨hbq, rfl⟩ := extract_eq_some hb
        exact ih (h.merge haq hbq)

/-- A forest put into the arena, with the root the queue leaves (R104). -/
theorem State.Inv.withTree {s : State} (h : s.Inv) {nodes : Sparse TreeNode} {q : List Nat} {k : Nat}
    (hq : QueueOk (s.cfg.lenW + 8) nodes q k) {r l : BitVec 9}
    (hr : r = 0x1FF#9 ∨ ∃ i, q = [i] ∧ r = BitVec.ofNat 9 i) (hl : l.toNat ≤ 256) :
    { s with node := nodes, root := r, nleaf := l }.Inv := by
  have hsize := hq.size
  have hroot : r = 0x1FF#9 ∨ treeValid nodes r.toNat = true := by
    refine hr.imp_right ?_
    rintro ⟨i, rfl, rfl⟩
    obtain ⟨hv, -⟩ := hq.roots i (List.mem_singleton_self i)
    have hi := hq.forest.valid_lt (by omega) hv
    rwa [BitVec.toNat_ofNat, Nat.mod_eq_of_lt]
    rw [List.length_singleton] at hsize
    omega
  have hinner : ∀ i, 256 ≤ i → treeValid nodes i = true → i ≤ 510 ∧ (nodeAt nodes i).tag = true ∧
      ∀ b, treeChild nodes i b < i ∧ treeValid nodes (treeChild nodes i b) = true := fun i hi hv => by
    have hin : i ≤ 510 := by
      by_contra hgt
      have hcleared : nodeAt nodes i = TreeNode.cleared := Sparse.get_of_ge hq.forest.canonical (by omega)
      rw [treeValid, hcleared] at hv
      exact absurd hv Bool.false_ne_true
    exact ⟨hin, (hq.forest.inner i hi hv).2⟩
  exact ⟨h.config, { h.widths with node := hq.forest.freq }, { h.canonical with node := hq.forest.canonical },
    { h.registers with root := hroot, nleaf := hl }, ⟨hq.forest.leaf, hinner, hq.forest.owner, hroot⟩,
    { h.draws with }⟩

theorem buildTree_keeps_inv {s t : State} (h : s.Inv) (ht : buildTree s = .ok t) : t.Inv := by
  have hfreq : ∀ i, Sparse.get 0 s.freq i < 2 ^ (s.cfg.lenW + 8) := fun i =>
    (h.widths.freq i).trans_le (Nat.pow_le_pow_right (by omega) (by omega))
  obtain ⟨k, hq⟩ := (queueOk_plantLeaves hfreq).mergeAll (presentSymbols s.freq).length
  cases ht
  refine h.withTree hq ?_ ((BitVec.toNat_ofNat _ _).trans_le ((Nat.mod_le _ _).trans (length_presentSymbols_le s.freq)))
  split
  · next r hr => exact .inr ⟨r, hr, rfl⟩
  · exact .inl rfl

/-! ### TRIE -/

/-- The trie arena while it is built: every link leads below the next free index, and nothing stands from there on (R50,
R121); `n` is the size of TRIE. -/
structure TrieBuild.Ok (n : Nat) (t : TrieBuild) : Prop where
  canonical : Sparse.wf TrieNode.cleared n t.nodes = true
  links : ∀ i b, (trieAt t.nodes i).child b = 0xFFFF#16 ∨ ((trieAt t.nodes i).child b).toNat < t.next
  unused : ∀ i, t.next ≤ i → trieAt t.nodes i = TrieNode.cleared

theorem trieAt_set (nodes : Sparse TrieNode) (i j : Nat) (nd : TrieNode) :
    trieAt (Sparse.set TrieNode.cleared nodes i nd) j = if j = i then nd else trieAt nodes j :=
  Sparse.get_set _ _ _ _ _

theorem TrieNode.child_setChild (nd : TrieNode) (b d : Bool) (c : BitVec 16) :
    (nd.setChild b c).child d = if d = b then c else nd.child d := by
  cases b <;> cases d <;> rfl

section Trie

variable {n cur : Nat} {t : TrieBuild}

/-- An entry in use may be replaced by one whose links are good under the new next free index. -/
theorem TrieBuild.Ok.replace (h : t.Ok n) (hcur : cur < t.next) (hfit : t.next ≤ n) {next : Nat} (hnext : t.next ≤ next)
    {nd : TrieNode} (hnd : ∀ b, nd.child b = 0xFFFF#16 ∨ (nd.child b).toNat < next) :
    TrieBuild.Ok n ⟨Sparse.set TrieNode.cleared t.nodes cur nd, next⟩ where
  canonical := Sparse.wf_set _ h.canonical (by omega)
  links i b := by
    rw [trieAt_set]
    split_ifs
    · exact hnd b
    · exact (h.links i b).imp_right fun hlt => hlt.trans_le hnext
  unused i hi := by
    have hout : t.next ≤ i := hnext.trans hi
    rw [trieAt_set, if_neg (by omega)]
    exact h.unused i hout

/-- What one bit of a Code does: at most one entry more, and the walk can go on (R121). -/
theorem TrieBuild.Ok.grow (h : t.Ok n) (hcur : cur < t.next) (hfit : t.next < 65281) (hn : 65281 ≤ n) (b : Bool) :
    (trieGrow cur b t).Ok n ∧ (trieGrow cur b t).next ≤ t.next + 1 ∧
      ((trieAt (trieGrow cur b t).nodes cur).child b).toNat < (trieGrow cur b t).next := by
  have hnew : (BitVec.ofNat 16 t.next).toNat = t.next := Nat.mod_eq_of_lt (by omega)
  unfold trieGrow
  dsimp only
  split_ifs with hnil
  · refine ⟨h.replace hcur (by omega) (Nat.le_succ _) fun d => ?_, Nat.le_refl _, ?_⟩
    · rw [TrieNode.child_setChild]
      split_ifs
      · exact .inr (by omega)
      · exact (h.links cur d).imp_right Nat.lt_succ_of_lt
    · rw [trieAt_set, if_pos rfl, TrieNode.child_setChild, if_pos rfl, hnew]
      exact Nat.lt_succ_self _
  · exact ⟨h, Nat.le_succ _, (h.links cur b).resolve_left hnil⟩

/-- Walking a Code makes at most one entry a bit (R121). -/
theorem TrieBuild.Ok.insert (c : BitString) (h : t.Ok n) (hcur : cur < t.next) (hfit : t.next + c.length ≤ 65281)
    (hn : 65281 ≤ n) :
    (trieInsert c cur t).2.Ok n ∧ (trieInsert c cur t).2.next ≤ t.next + c.length ∧
      (trieInsert c cur t).1 < (trieInsert c cur t).2.next := by
  induction c generalizing cur t with
  | nil => exact ⟨h, Nat.le_refl _, hcur⟩
  | cons b c ih =>
    rw [List.length_cons] at hfit ⊢
    obtain ⟨hok, hle, hlt⟩ := h.grow hcur (by omega) hn b
    obtain ⟨hok', hle', hlt'⟩ := ih hok hlt (by omega)
    exact ⟨hok', by rw [trieInsert]; omega, hlt'⟩

theorem TrieBuild.Ok.mark (h : t.Ok n) (hcur : cur < t.next) (hfit : t.next ≤ n) (sym : Nat) :
    (trieMark cur sym t).Ok n :=
  h.replace hcur hfit (Nat.le_refl _) fun b => by
    have := h.links cur b
    cases b <;> exact this

/-- One Symbol makes at most 255 entries, since its Code has at most 255 bits (R11, R12). -/
theorem TrieBuild.Ok.addSymbol (tab : CodeTable) (sym : Nat) (h : t.Ok n) (hroot : 0 < t.next)
    (hfit : t.next + 255 ≤ 65281) (hn : 65281 ≤ n) :
    (trieAddSymbol tab t sym).Ok n ∧ 0 < (trieAddSymbol tab t sym).next ∧
      (trieAddSymbol tab t sym).next ≤ t.next + 255 := by
  unfold trieAddSymbol
  split_ifs
  · have hlen : (tab.codeOf sym).length ≤ 255 := (tab.length_codeOf sym).trans_le (tab.len_le sym)
    obtain ⟨hok, hle, hlt⟩ := h.insert (tab.codeOf sym) hroot (by omega) hn
    exact ⟨hok.mark hlt (by omega) sym, Nat.zero_lt_of_lt hlt, hle.trans (by omega)⟩
  · exact ⟨h, hroot, Nat.le_add_right _ _⟩

theorem TrieBuild.Ok.addSymbols (tab : CodeTable) (syms : List Nat) (h : t.Ok n) (hroot : 0 < t.next)
    (hfit : t.next + 255 * syms.length ≤ 65281) (hn : 65281 ≤ n) :
    (syms.foldl (trieAddSymbol tab) t).Ok n ∧
      (syms.foldl (trieAddSymbol tab) t).next ≤ t.next + 255 * syms.length := by
  induction syms generalizing t with
  | nil => exact ⟨h, Nat.le_refl _⟩
  | cons sym syms ih =>
    rw [List.length_cons, Nat.mul_succ] at hfit ⊢
    have hfit' : t.next + 255 ≤ 65281 := (Nat.add_le_add_left (Nat.le_add_left 255 _) _).trans hfit
    obtain ⟨hok, hpos, hle⟩ := h.addSymbol tab sym hroot hfit' hn
    obtain ⟨hok', hle'⟩ := ih hok hpos (by omega)
    exact ⟨hok', by rw [List.foldl_cons]; omega⟩

end Trie

theorem State.Inv.withTrie {s : State} (h : s.Inv) {t : TrieBuild} (ht : t.Ok s.cfg.trieNodes) (hn : t.next ≤ 65281) :
    { s with trie := t.nodes, tcnt := BitVec.ofNat 16 t.next }.Inv := by
  have hcount : (BitVec.ofNat 16 t.next).toNat = t.next := Nat.mod_eq_of_lt (by omega)
  exact ⟨h.config, { h.widths with }, { h.canonical with trie := ht.canonical },
    { h.registers with
      tcnt := hcount.trans_le hn
      links := fun i b => (ht.links i b).imp_right fun hlt => BitVec.lt_def.2 (hlt.trans_eq hcount.symm)
      unused := fun i hi => ht.unused i (hcount.symm.trans_le hi) },
    { h.tree with }, { h.draws with }⟩

theorem buildTrie_keeps_inv {s t : State} (h : s.Inv) (ht : buildTrie s = .ok t) : t.Inv := by
  have hempty : TrieBuild.Ok s.cfg.trieNodes ⟨[], 1⟩ :=
    ⟨Sparse.wf_nil _ _, fun _ b => .inl (by cases b <;> rfl), fun _ _ => rfl⟩
  obtain ⟨hok, hle⟩ := hempty.addSymbols s.table (List.range 256) Nat.one_pos (by simp) (Config.trieNodes_ge h.config)
  cases ht
  exact h.withTrie hok (hle.trans (by simp))

/-! ### Every command and every host step -/

theorem exec_keeps_inv (i : Instr) {s : State} (h : s.Inv) : ∃ t, exec i s = .next t ∧ t.Inv := by
  cases i with
  | nop => exact command_keeps_inv h fun _ ht => Except.ok.inj ht ▸ h
  | rst => exact ⟨_, rfl, h.clearAll⟩
  | swap => exact command_keeps_inv h fun _ => swapBuffers_keeps_inv h
  | ciphf b => exact command_keeps_inv h fun _ => cipherBuffer_keeps_inv _ b h
  | ciphi b => exact command_keeps_inv h fun _ => cipherBuffer_keeps_inv _ b h
  | hash b => exact command_keeps_inv h fun _ => hashBuffer_keeps_inv b h
  | fcnt => exact command_keeps_inv h fun _ => countFrequencies_keeps_inv h
  | tbld => exact command_keeps_inv h fun _ => buildTree_keeps_inv h
  | cgen => exact execCgen_keeps_inv h
  | pack => exact outputCommand_keeps_inv h fun _ => packBuffer_keeps_inv h
  | trie => exact command_keeps_inv h fun _ => buildTrie_keeps_inv h
  | dect => exact outputCommand_keeps_inv h fun _ => decodeWith_keeps_inv (fun _ _ _ _ => decodeStream_length) h
  | mapb => exact command_keeps_inv h fun _ => buildMap_keeps_inv h
  | decm => exact outputCommand_keeps_inv h fun _ => decodeWith_keeps_inv (fun _ _ _ _ => decodeStream_length) h

theorem hostCmd_keeps_inv (w : CmdWord) {s : State} (h : s.Inv) : ∃ t, hostCmd w s = .next t ∧ t.Inv := by
  unfold hostCmd
  split
  · exact exec_keeps_inv _ h
  · exact command_keeps_inv h fun _ ht => nomatch ht

theorem writeReg_keeps_inv (v : Nat) (r : Reg) {s : State} (h : s.Inv) : (s.writeReg v r).Inv := by
  cases r with
  | ilen => exact h.withLengths (trunc_lt _ _) h.widths.nsym s.klen
  | nsym => exact h.withLengths h.widths.ilen (trunc_lt _ _) s.klen
  | klen => exact h.withLengths h.widths.ilen h.widths.nsym _
  | _ => exact h

theorem setElement_keeps_inv {s : State} (h : s.Inv) {i : Nat} (v : Nat) {sp : Space} (hi : i < s.size sp) :
    (s.setElement i v sp).Inv := by
  cases sp with
  | reg =>
    unfold State.setElement
    dsimp only
    split
    · exact writeReg_keeps_inv v _ h
    · exact h
  | ibuf =>
    obtain ⟨hwf, hin⟩ := h.canonical.ibuf
    exact h.withInput (Memory.wf_write i _ hwf) (Memory.within_write _ hin hi) rfl
  | obuf => exact h
  | key =>
    obtain ⟨hwf, hin⟩ := h.canonical.key
    exact h.withKey (Memory.wf_write i _ hwf) (Memory.within_write _ hin hi) rfl
  | freq => exact h.withFreq (FreqOk.set ⟨h.canonical.freq, h.widths.freq⟩ hi v)
  | clen => exact h.withTable ⟨Sparse.wf_set _ h.canonical.clen hi, h.canonical.cbits⟩ h.widths.wpl
  | cbits => exact h.withTable ⟨h.canonical.clen, Sparse.wf_set _ h.canonical.cbits hi⟩ h.widths.wpl
  | node => exact h
  | trie => exact h

theorem hostWrite_keeps_inv {s : State} (h : s.Inv) (sp i v : Nat) : (s.hostWrite sp i v).Inv := by
  unfold State.hostWrite
  split
  · exact h
  · split_ifs with hi
    · exact setElement_keeps_inv h v hi
    · exact h

theorem runHostStep_keeps_inv (x : HostStep) {s : State} (h : s.Inv) : ∃ t, runHostStep x s = .next t ∧ t.Inv := by
  cases x with
  | write sp i v => exact ⟨_, rfl, hostWrite_keeps_inv h sp i v⟩
  | read sp i => exact ⟨_, rfl, h.withReplies _⟩
  | cmd w => exact hostCmd_keeps_inv w h
  | hardwareReset => exact ⟨_, rfl, h.hardwareReset⟩

theorem step_keeps_inv {s : State} (h : s.Inv) : ∃ t, step s = .next t ∧ t.Inv := by
  cases hp : s.pending with
  | nil => exact ⟨s, step_idle hp, h⟩
  | cons x rest =>
    rw [step_host hp]
    exact runHostStep_keeps_inv x (h.withPending rest)

/-- Settles O60: every host step keeps the invariant, and CGEN's walk never meets an arena without a tree. -/
theorem invariantStepNeverStops : Obligations.InvariantStepNeverStops := by
  unfold Obligations.InvariantStepNeverStops
  exact fun _ => step_keeps_inv

end Sys2Proof.Machine

/-! PROOFS. The state of the block: what reset leaves, what the host reads, and what every command writes, counts and
keeps. -/

namespace Sys2Proof.Machine

open Sys2Proof.Claims

/-! ### The invariant -/

/-- Settles O59: the invariant that every step keeps contains the bounds of R50. -/
theorem stepKeepsRegisterInvariants : Obligations.StepKeepsRegisterInvariants := by
  unfold Obligations.StepKeepsRegisterInvariants
  intro s t hs ht
  obtain ⟨u, hu, hinv⟩ := step_keeps_inv hs
  cases ht.symm.trans hu
  exact hinv.registers

theorem State.inv_afterReset {c : Config} (hc : c.wellFormed = true) (d : Nat) : (State.afterReset c d).Inv :=
  .ofReset (d := d) hc rfl ⟨rfl, rfl⟩ ⟨rfl, rfl⟩ ⟨rfl, rfl⟩ (by
    constructor <;> simp only [State.afterReset] <;> omega)

/-- Settles O57: both claims are about `State.afterReset`, with the default parameters and with any within R10. -/
theorem resetSatisfiesTheInvariant : Obligations.ResetSatisfiesTheInvariant := by
  unfold Obligations.ResetSatisfiesTheInvariant
  exact ⟨State.inv_afterReset (by decide) 0, fun c d hc => State.inv_afterReset hc d⟩

/-! ### What the host reads -/

theorem State.hostRead_of_lt {s : State} {id i : Nat} {sp : Space} (hid : Space.ofId id = some sp)
    (hi : i < s.size sp) : s.hostRead id i = s.element i sp := by
  simp [State.hostRead, hid, hi]

theorem spaceSize_eq_size (s : State) {id : Nat} {sp : Space} (hid : Space.ofId id = some sp) :
    spaceSize s.cfg id = s.size sp := by
  have hlt : id < 9 := (List.getElem?_eq_some_iff.1 hid).1
  interval_cases id <;> cases hid <;> rfl

/-- Outside its space an element reads as 0 (R63). -/
theorem State.hostRead_of_ge {s : State} {id i : Nat} (hi : spaceSize s.cfg id ≤ i) : s.hostRead id i = 0 := by
  unfold State.hostRead
  split
  · rfl
  · next sp hid =>
    rw [spaceSize_eq_size s hid] at hi
    rw [if_neg (Nat.not_lt.2 hi)]

theorem State.toNat_status (s : State) : s.status.toNat = if s.err = 0#8 then 0 else 2 := by
  by_cases h : s.err = 0#8 <;> simp [State.status, State.estop, h]

/-- The sixteen registers by index (R21). -/
theorem State.hostRead_reg (s : State) {i : Nat} (hi : i < 16) :
    s.hostRead 0 i =
      [if s.err = 0#8 then 0 else 2, s.err.toNat, s.einfo, s.ccnt.toNat, s.ilen, s.olen, s.nsym, s.klen.toNat,
        s.cfg.addK.toNat, s.wpl, s.root.toNat, s.nleaf.toNat, s.tcnt.toNat, s.mcnt.toNat, s.hash0.toNat,
        s.hash1.toNat].getD i 0 := by
  rw [State.hostRead_of_lt (sp := .reg) rfl hi, ← s.toNat_status]
  interval_cases i <;> rfl

/-- Byte `j` of `CBITS[s]` holds bits `8 × j` to `8 × j + 7` of the Symbol's Code, MSB first (R40, R60). -/
theorem State.hostRead_cbits (s : State) {i j : Nat} (hi : i < 256) (hj : j < 32) :
    s.hostRead 6 (32 * i + j) = (Sparse.get 0#8 s.table.cbits (32 * i + j)).toNat :=
  State.hostRead_of_lt (sp := .cbits) rfl (show 32 * i + j < 8192 by omega)

theorem CodeTable.bit_of_byte (t : CodeTable) (i j : Nat) {k : Nat} (hk : k < 8) :
    t.bit i (8 * j + k) = (Sparse.get 0#8 t.cbits (32 * i + j)).getLsbD (7 - k) := by
  rw [CodeTable.bit, show (8 * j + k) / 8 = j by omega, show (8 * j + k) % 8 = k by omega]

/-- Settles O11: one clause for each space a host reads, by the space's lemma. -/
theorem hostReadChangesNothing : Obligations.HostReadChangesNothing := by
  unfold Obligations.HostReadChangesNothing
  intro s sp i rest
  refine ⟨fun hp => step_host hp, State.hostRead_of_ge, s.hostRead_reg, fun hi => ⟨?_, ?_⟩, fun hi => ?_,
    fun hi => ⟨?_, ?_⟩, fun hi j hj => ?_⟩
  · exact State.hostRead_of_lt (sp := .ibuf) rfl hi
  · exact State.hostRead_of_lt (sp := .obuf) rfl hi
  · exact State.hostRead_of_lt (sp := .key) rfl hi
  · exact State.hostRead_of_lt (sp := .freq) rfl hi
  · exact State.hostRead_of_lt (sp := .clen) rfl hi
  · rw [s.hostRead_cbits hi hj]
    refine ⟨BitVec.isLt _, fun k hk => ?_⟩
    rw [CodeTable.bit_of_byte _ _ _ hk, BitVec.getLsbD]

/-- Settles O13: STATUS and CADD stand at indices 0 and 8 of the register space. -/
theorem statusIsAFunctionOfErr : Obligations.StatusIsAFunctionOfErr := by
  unfold Obligations.StatusIsAFunctionOfErr
  intro s
  exact ⟨s.hostRead_reg (i := 0) (by omega), s.hostRead_reg (i := 8) (by omega)⟩

/-- An array that lists nothing reads as its cleared value, inside its space and outside. -/
theorem State.hostRead_afterReset_array (c : Config) (d i : Nat) :
    (State.afterReset c d).hostRead 4 i = 0 ∧ (State.afterReset c d).hostRead 5 i = 0 ∧
      (State.afterReset c d).hostRead 6 i = 0 := by
  refine ⟨?_, ?_, ?_⟩ <;> exact ite_self 0

/-- Settles O20: the registers by their index, the arrays and MAP by listing nothing, the bytes by their draws. -/
theorem resetValues : Obligations.ResetValues := by
  unfold Obligations.ResetValues
  intro c d
  refine ⟨fun i hi => ?_, State.hostRead_afterReset_array c d, fun _ => ⟨rfl, rfl⟩, fun _ => rfl,
    fun _ => ⟨rfl, rfl, rfl⟩, fun s t ht => ?_⟩
  · rw [State.hostRead_reg _ hi]
    interval_cases i <;> rfl
  · cases ht
    exact ⟨rfl, rfl, rfl⟩

/-! ### What every command writes -/

/-- What the command `i` may write when it completes, said as a relation of the state before and the state its effect
leaves, CCNT not yet counted (R77). RST is not among them: it does not retire. -/
def Writes : Instr → State → State → Prop
  | .nop, s, u => u = s
  | .rst, _, _ => False
  | .swap, s, u => ∃ m m' n n', u = { s with ibuf := m, obuf := m', ilen := n, olen := n' }
  | .ciphf b, s, u => ∃ m, u = s.setBuf m b
  | .ciphi b, s, u => ∃ m, u = s.setBuf m b
  | .hash b, s, u => ∃ h, u = s.setHash h b
  | .fcnt, s, u => ∃ f n, u = { s with freq := f, nsym := n }
  | .tbld, s, u => ∃ nodes r l, u = { s with node := nodes, root := r, nleaf := l }
  | .cgen, s, u => ∃ tab w, u = { s with table := tab, wpl := w }
  | .pack, s, u => ∃ m n, u = { s with obuf := m, olen := n }
  | .trie, s, u => ∃ nodes n, u = { s with trie := nodes, tcnt := n }
  | .dect, s, u => ∃ m n, u = { s with obuf := m, olen := n }
  | .mapb, s, u => ∃ m n, u = { s with map := m, mcnt := n }
  | .decm, s, u => ∃ m n, u = { s with obuf := m, olen := n }

section Effects

variable {s u : State}

theorem swapBuffers_writes (h : swapBuffers s = .ok u) : Writes .swap s u := by
  unfold swapBuffers at h
  split_ifs at h
  cases h
  exact ⟨_, _, _, _, rfl⟩

theorem cipherBuffer_writes {f : State → Nat → Byte → Byte} {b : BufSel} (h : cipherBuffer f b s = .ok u) :
    ∃ m, u = s.setBuf m b := by
  unfold cipherBuffer at h
  split_ifs at h
  cases h
  exact ⟨_, rfl⟩

theorem hashBuffer_writes {b : BufSel} (h : hashBuffer b s = .ok u) : Writes (.hash b) s u := by
  unfold hashBuffer at h
  split_ifs at h
  cases h
  exact ⟨_, rfl⟩

theorem countFrequencies_writes (h : countFrequencies s = .ok u) : Writes .fcnt s u := by
  unfold countFrequencies at h
  split_ifs at h
  cases h
  exact ⟨_, _, rfl⟩

theorem buildTree_writes (h : buildTree s = .ok u) : Writes .tbld s u := by
  cases h
  exact ⟨_, _, _, rfl⟩

theorem buildTrie_writes (h : buildTrie s = .ok u) : Writes .trie s u := by
  cases h
  exact ⟨_, _, rfl⟩

theorem buildMap_writes (h : buildMap s = .ok u) : Writes .mapb s u := by
  cases h
  exact ⟨_, _, rfl⟩

theorem packBuffer_writes (h : packBuffer s = .ok u) : Writes .pack s u := by
  unfold packBuffer at h
  split_ifs at h
  dsimp only at h
  split at h
  · cases h
  · split_ifs at h
    cases h
    exact ⟨_, _, rfl⟩

theorem decodeWith_writes {loop : State → BitString → Nat → Except Nat (List Symbol)}
    (h : decodeWith loop s = .ok u) : ∃ m n, u = { s with obuf := m, olen := n } := by
  obtain ⟨-, rfl⟩ | ⟨-, -, -, -, out, -, rfl⟩ := decodeWith_ok h
  · exact ⟨s.obuf, 0, rfl⟩
  · exact ⟨_, _, rfl⟩

end Effects

/-- What a command that answers `t` from `s` can have done: nothing in error-stop, its writes and one count, or a fault,
by which PACK, DECT and DECM lose their output besides (R196 to R199). -/
inductive CommandOutcome (i : Instr) (s : State) : State → Prop
  | dropped (h : s.err ≠ 0#8) : CommandOutcome i s s
  | retired {u : State} (h : s.err = 0#8) (hw : Writes i s u) : CommandOutcome i s u.retire
  | faulted (r : Raised) (h : s.err = 0#8) : CommandOutcome i s (s.raise r)
  | outputFaulted (r : Raised) (h : s.err = 0#8) (hi : i ∈ [.pack, .dect, .decm]) :
    CommandOutcome i s (s.loseOutput.raise r)

section Outcomes

variable {i : Instr} {s t : State} {body : State → Except Raised State}

theorem CommandOutcome.of_command (h : command body s = .next t) (hb : ∀ u, body s = .ok u → Writes i s u) :
    CommandOutcome i s t := by
  obtain ⟨he, rfl⟩ | ⟨he, u, hu, rfl⟩ | ⟨he, r, -, rfl⟩ := command_cases h
  · exact .dropped he
  · exact .retired he (hb u hu)
  · exact .faulted r he

theorem CommandOutcome.of_outputCommand (hi : i ∈ [.pack, .dect, .decm]) (h : outputCommand body s = .next t)
    (hb : ∀ u, body s = .ok u → Writes i s u) : CommandOutcome i s t := by
  obtain ⟨he, rfl⟩ | ⟨he, u, hu, rfl⟩ | ⟨he, r, -, rfl⟩ := outputCommand_cases h
  · exact .dropped he
  · exact .retired he (hb u hu)
  · exact .outputFaulted r he hi

theorem CommandOutcome.of_execCgen (h : execCgen s = .next t) : CommandOutcome .cgen s t := by
  obtain ⟨he, rfl⟩ | ⟨he, g, -, rfl⟩ := execCgen_cases h
  · exact .dropped he
  · exact .retired he ⟨_, _, rfl⟩

/-- Every command but RST has one of the four outcomes. -/
theorem exec_outcome (hi : i ≠ .rst) (h : exec i s = .next t) : CommandOutcome i s t := by
  cases i with
  | nop => exact .of_command (body := .ok) h fun _ hu => (Except.ok.inj hu).symm
  | rst => exact absurd rfl hi
  | swap => exact .of_command h fun _ => swapBuffers_writes
  | ciphf b => exact .of_command h fun _ => cipherBuffer_writes
  | ciphi b => exact .of_command h fun _ => cipherBuffer_writes
  | hash b => exact .of_command h fun _ => hashBuffer_writes
  | fcnt => exact .of_command h fun _ => countFrequencies_writes
  | tbld => exact .of_command (body := buildTree) h fun _ => buildTree_writes
  | cgen => exact .of_execCgen h
  | pack => exact .of_outputCommand (by decide) h fun _ => packBuffer_writes
  | trie => exact .of_command (body := buildTrie) h fun _ => buildTrie_writes
  | dect => exact .of_outputCommand (by decide) h fun _ => decodeWith_writes
  | mapb => exact .of_command (body := buildMap) h fun _ => buildMap_writes
  | decm => exact .of_outputCommand (by decide) h fun _ => decodeWith_writes

/-- No effect writes CCNT or EINFO: retiring and faults do (R24, R30). -/
theorem Writes.counters (h : Writes i s t) : t.ccnt = s.ccnt ∧ t.einfo = s.einfo := by
  cases i with
  | nop => exact h ▸ ⟨rfl, rfl⟩
  | rst => exact h.elim
  | swap => obtain ⟨_, _, _, _, rfl⟩ := h; exact ⟨rfl, rfl⟩
  | ciphf b | ciphi b | hash b => obtain ⟨_, rfl⟩ := h; cases b <;> exact ⟨rfl, rfl⟩
  | tbld => obtain ⟨_, _, _, rfl⟩ := h; exact ⟨rfl, rfl⟩
  | fcnt | cgen | pack | trie | dect | mapb | decm => obtain ⟨_, _, rfl⟩ := h; exact ⟨rfl, rfl⟩

/-- Settles O16: of the four outcomes of a command only retiring leaves ERR at 0. -/
theorem retiringCountsOne : Obligations.RetiringCountsOne := by
  unfold Obligations.RetiringCountsOne
  intro i s t hi ht
  cases exec_outcome hi ht with
  | dropped he => exact ⟨fun h => absurd h he, fun _ => rfl⟩
  | retired he hw =>
    obtain ⟨hccnt, heinfo⟩ := hw.counters
    exact ⟨fun _ _ => ⟨congrArg (· + 1#32) hccnt, heinfo⟩, fun h => absurd he h⟩
  | faulted r he | outputFaulted r he =>
    exact ⟨fun _ h => absurd h r.cause.code_ne_zero, fun h => absurd he h⟩

/-- The frame of the command `i` over two states (R77, R37). -/
def Framed (i : Instr) (s t : State) : Prop :=
  (t.cfg = s.cfg ∧ t.key = s.key ∧ t.pending = s.pending ∧ t.replies = s.replies) ∧
  (i ∉ [.rst, .swap] → t.ilen = s.ilen) ∧
  (i ∉ [.rst, .swap, .pack, .dect, .decm] → t.olen = s.olen) ∧
  (i ∉ [.rst, .fcnt] → t.nsym = s.nsym ∧ t.freq = s.freq) ∧
  (i ≠ .rst → t.klen = s.klen) ∧
  (i ∉ [.rst, .cgen] → t.wpl = s.wpl ∧ t.table = s.table) ∧
  (i ∉ [.rst, .tbld] → t.root = s.root ∧ t.nleaf = s.nleaf ∧ t.node = s.node) ∧
  (i ∉ [.rst, .trie] → t.tcnt = s.tcnt ∧ t.trie = s.trie) ∧
  (i ∉ [.rst, .mapb] → t.mcnt = s.mcnt ∧ t.map = s.map) ∧
  (i ∉ [.rst, .hash .input] → t.hash0 = s.hash0) ∧
  (i ∉ [.rst, .hash .output] → t.hash1 = s.hash1) ∧
  (i ∉ [.swap, .ciphf .input, .ciphi .input] → t.ibuf = s.ibuf) ∧
  (i ∉ [.swap, .ciphf .output, .ciphi .output, .pack, .dect, .decm] → t.obuf = s.obuf)

theorem Framed.refl (i : Instr) (s : State) : Framed i s s := by simp [Framed]

theorem Framed.clearAll (s : State) : Framed .rst s s.clearAll := by simp [Framed]

theorem Framed.loseOutput (hi : i ∈ [.pack, .dect, .decm]) (s : State) : Framed i s s.loseOutput := by
  obtain rfl | rfl | rfl : i = .pack ∨ i = .dect ∨ i = .decm := by simpa using hi
  all_goals simp [Framed]

/-- An effect stays within its command's frame. -/
theorem Writes.framed (h : Writes i s t) : Framed i s t := by
  cases i with
  | nop => exact h ▸ Framed.refl _ _
  | rst => exact h.elim
  | swap => obtain ⟨_, _, _, _, rfl⟩ := h; simp [Framed]
  | ciphf b | ciphi b => obtain ⟨_, rfl⟩ := h; cases b <;> simp [Framed, State.setBuf]
  | hash b => obtain ⟨_, rfl⟩ := h; cases b <;> simp [Framed, State.setHash]
  | tbld => obtain ⟨_, _, _, rfl⟩ := h; simp [Framed]
  | fcnt | cgen | pack | trie | dect | mapb | decm => obtain ⟨_, _, rfl⟩ := h; simp [Framed]

theorem exec_framed (h : exec i s = .next t) : Framed i s t := by
  by_cases hi : i = .rst
  · subst hi
    cases h
    exact .clearAll s
  · cases exec_outcome hi h with
    | dropped he => exact .refl i s
    | retired he hw => exact hw.framed
    | faulted r he => exact .refl i s
    | outputFaulted r he hi => exact .loseOutput hi s

/-- Settles O17: each outcome of a command, and RST, stays within the command's frame. -/
theorem commandsWriteOnlyWhatIsListed : Obligations.CommandsWriteOnlyWhatIsListed := by
  unfold Obligations.CommandsWriteOnlyWhatIsListed
  exact fun _ _ _ => exec_framed

/-! ### Error-stop -/

/-- In error-stop every command but RST is dropped (R198). -/
theorem exec_stopped (he : s.err ≠ 0#8) (hi : i ≠ .rst) (h : exec i s = .next t) : t = s := by
  cases exec_outcome hi h with
  | dropped _ => rfl
  | retired h₀ _ | faulted _ h₀ | outputFaulted _ h₀ _ => exact absurd h₀ he

end Outcomes

/-- The row of RST in the opcode map takes no operand (R82). -/
theorem pattern_of_command_rst (b : BufSel) :
    ∀ r ∈ opcodeMap, r.command b = .rst → r.pattern = 0x0100#16 ∧ r.mask = 0xFFFF#16 := by
  cases b <;> decide

/-- The one word of RST (R82). -/
theorem eq_of_decode_rst {w : CmdWord} (h : decode w = .ok .rst) : w = 0x0100#16 := by
  unfold decode at h
  split at h
  · next r hr =>
    have hsel : r.selects w = true := List.find?_some (p := fun r : OpcodeRow => r.selects w) hr
    have hmem : r ∈ opcodeMap := List.mem_of_find?_eq_some hr
    obtain ⟨hpattern, hmask⟩ := pattern_of_command_rst _ r hmem (Except.ok.inj h)
    rw [OpcodeRow.selects, hpattern, hmask, beq_iff_eq] at hsel
    exact (BitVec.and_allOnes (x := w)).symm.trans hsel
  · cases h

/-- In error-stop every word but RST's is dropped, legal or not (R81 case 1, R198). -/
theorem hostCmd_stopped {w : CmdWord} {s t : State} (he : s.err ≠ 0#8) (hw : w ≠ 0x0100#16)
    (h : hostCmd w s = .next t) : t = s := by
  unfold hostCmd at h
  split at h
  · next i hi => exact exec_stopped he (fun hr => hw (eq_of_decode_rst (hr ▸ hi))) h
  · rw [illegalWord, command, unlessStopped_stopped he] at h
    exact (Host.Outcome.next.inj h).symm

/-- `t` records the fault that `s` records, and counts as many commands. -/
def SameFault (s t : State) : Prop := t.err = s.err ∧ t.einfo = s.einfo ∧ t.ccnt = s.ccnt

theorem sameFault_hostWrite (s : State) (sp i v : Nat) : SameFault s (s.hostWrite sp i v) := by
  have hreg : ∀ r : Reg, SameFault s (s.writeReg v r) := fun r => by cases r <;> exact ⟨rfl, rfl, rfl⟩
  have hset : ∀ sp : Space, SameFault s (s.setElement i v sp) := fun sp => by
    cases sp with
    | reg =>
      unfold State.setElement
      dsimp only
      split
      · exact hreg _
      · exact ⟨rfl, rfl, rfl⟩
    | _ => exact ⟨rfl, rfl, rfl⟩
  unfold State.hostWrite
  split
  · exact ⟨rfl, rfl, rfl⟩
  · split_ifs
    · exact hset _
    · exact ⟨rfl, rfl, rfl⟩

/-- Settles O8: host reads and writes touch neither ERR, EINFO nor CCNT, every word but RST's is dropped, and the two
resets clear the three. -/
theorem faultIsSticky : Obligations.FaultIsSticky := by
  unfold Obligations.FaultIsSticky
  intro s t he ht
  constructor
  · intro hp
    obtain ⟨-, rfl⟩ | ⟨x, rest, hx, hrun⟩ := step_cases ht
    · exact ⟨rfl, rfl, rfl⟩
    obtain ⟨hcmd, hreset⟩ := hp rest
    cases x with
    | write sp i v =>
      cases hrun
      exact sameFault_hostWrite _ sp i v
    | read sp i =>
      cases hrun
      exact ⟨rfl, rfl, rfl⟩
    | cmd w =>
      have hw : w ≠ 0x0100#16 := fun h => hcmd (h ▸ hx)
      rw [hostCmd_stopped (s := { s with pending := rest }) he hw hrun]
      exact ⟨rfl, rfl, rfl⟩
    | hardwareReset => exact absurd hx hreset
  · rintro rest (hx | hx) <;> rw [step_host hx] at ht <;> cases ht <;> exact ⟨rfl, rfl, rfl⟩

end Sys2Proof.Machine

/-! PROOFS. The code table: a Code written with `SetCode` reads back with `CodeOf` (R40). -/

namespace Sys2Proof.Machine

/-- The `n` bits `f 0`, `f 1`, … read as a number, the first bit the most significant, hold bit `k` at position
`n - 1 - k`. -/
theorem testBit_foldl_bits (f : Nat → Bool) {n k : Nat} (hk : k < n) :
    ((List.range n).foldl (fun a k => 2 * a + (f k).toNat) 0).testBit (n - 1 - k) = f k := by
  induction n with
  | zero => omega
  | succ n ih =>
    rw [List.range_succ, List.foldl_append, List.foldl_cons, List.foldl_nil]
    rcases Nat.lt_succ_iff_lt_or_eq.1 hk with hlt | rfl
    · rw [show n + 1 - 1 - k = (n - 1 - k) + 1 by omega, Nat.testBit_succ, ← ih hlt]
      congr 1
      have := (f n).toNat_lt
      omega
    · rw [show k + 1 - 1 - k = 0 by omega, Nat.testBit_zero]
      cases f k <;> simp

/-- Bit `k` of byte `j` of a Code, MSB first, is the Code's bit `8 × j + k`, or 0 past its end. -/
theorem getLsbD_codeByte (c : BitString) (j : Nat) {k : Nat} (hk : k < 8) :
    (codeByte c j).getLsbD (7 - k) = c.getD (8 * j + k) false := by
  rw [codeByte, BitVec.getLsbD_ofNat, testBit_foldl_bits (fun k => c.getD (8 * j + k) false) hk]
  simp only [show 7 - k < 8 by omega, decide_true, Bool.true_and]

/-- The bytes `f 0` to `f (n - 1)` written from index `base` on. -/
theorem get_foldl_set (f : Nat → Byte) (base n i : Nat) (m : Sparse Byte) :
    Sparse.get 0#8 ((List.range n).foldl (fun m j => Sparse.set 0#8 m (base + j) (f j)) m) i =
      if base ≤ i ∧ i < base + n then f (i - base) else Sparse.get 0#8 m i := by
  induction n with
  | zero => rw [if_neg (by omega)]; rfl
  | succ n ih =>
    rw [List.range_succ, List.foldl_append, List.foldl_cons, List.foldl_nil, Sparse.get_set, ih]
    by_cases hi : i = base + n
    · rw [if_pos hi, if_pos (by omega), hi, Nat.add_sub_cancel_left]
    · rw [if_neg hi]
      exact if_congr (by omega) rfl rfl

theorem CodeTable.getElem_codeOf (t : CodeTable) (s k : Nat) (hk : k < (t.codeOf s).length) :
    (t.codeOf s)[k] = t.bit s k := by
  simp [CodeTable.codeOf]

section SetCode

variable (t : CodeTable) {s : Nat} {c : BitString}

theorem CodeTable.len_setCode_same (hc : c.length < 256) : (t.setCode s c).len s = c.length := by
  rw [CodeTable.len, CodeTable.setCode, Sparse.get_set_same, BitVec.toNat_ofNat, Nat.mod_eq_of_lt hc]

theorem CodeTable.len_setCode_other {u : Nat} (hu : u ≠ s) : (t.setCode s c).len u = t.len u := by
  rw [CodeTable.len, CodeTable.setCode, Sparse.get_set_other _ _ _ hu, CodeTable.len]

/-- `SetCode` writes the Code's bits, and zeros past its end (R40). -/
theorem CodeTable.bit_setCode_same {k : Nat} (hk : k < 256) : (t.setCode s c).bit s k = c.getD k false := by
  rw [CodeTable.bit, CodeTable.setCode, get_foldl_set, if_pos (by omega), Nat.add_sub_cancel_left,
    getLsbD_codeByte c _ (Nat.mod_lt k (by omega)), Nat.div_add_mod]

theorem CodeTable.bit_setCode_other {u k : Nat} (hu : u ≠ s) (hk : k < 256) :
    (t.setCode s c).bit u k = t.bit u k := by
  rw [CodeTable.bit, CodeTable.setCode, get_foldl_set, if_neg (by omega), CodeTable.bit]

theorem CodeTable.codeOf_setCode_same (hc : c.length < 256) : (t.setCode s c).codeOf s = c := by
  refine List.ext_getElem (by rw [CodeTable.length_codeOf, t.len_setCode_same hc]) fun k _ hk => ?_
  rw [CodeTable.getElem_codeOf, t.bit_setCode_same (hk.trans hc), List.getD_eq_getElem _ _ hk]

theorem CodeTable.codeOf_setCode_other {u : Nat} (hu : u ≠ s) : (t.setCode s c).codeOf u = t.codeOf u := by
  rw [CodeTable.codeOf, CodeTable.codeOf, t.len_setCode_other hu]
  refine List.map_congr_left fun k hk => t.bit_setCode_other hu ?_
  have := t.len_le u
  have := List.mem_range.1 hk
  omega

end SetCode

/-- Settles O41: the three clauses are what `SetCode` does to the length and to the bits of each Symbol. -/
theorem setCodeThenCodeOf : Obligations.SetCodeThenCodeOf := by
  unfold Obligations.SetCodeThenCodeOf
  intro t s c _ hc
  have hlen : c.length < 256 := by
    simp only [codeWellFormed, Bool.and_eq_true, decide_eq_true_eq] at hc
    omega
  refine ⟨t.codeOf_setCode_same hlen, fun u hu => t.codeOf_setCode_other hu, fun k hk hk' => ?_⟩
  rw [t.bit_setCode_same hk', List.getD_eq_default _ _ hk]

end Sys2Proof.Machine

/-! PROOFS. The trie that TRIE builds: different bit-strings lead to different entries, so a mark at the end of a Code
gives its Symbol to that Code alone (R121). -/

namespace Sys2Proof.Machine

open Sys2Proof.Claims

/-! ### Following a bit-string -/

/-- The entry one edge leads to, if it is there. -/
def trieEdge (t : Sparse TrieNode) (n : Nat) (b : Bool) : Option Nat :=
  if (trieAt t n).child b = 0xFFFF#16 then none else some ((trieAt t n).child b).toNat

theorem trieFollow_cons (t : Sparse TrieNode) (n : Nat) (b : Bool) (p : BitString) :
    trieFollow t n (b :: p) = (trieEdge t n b).bind fun m => trieFollow t m p := by
  simp only [trieFollow, trieEdge]
  split_ifs <;> rfl

theorem trieFollow_snoc (t : Sparse TrieNode) (n : Nat) (p : BitString) (b : Bool) :
    trieFollow t n (p ++ [b]) = (trieFollow t n p).bind fun m => trieEdge t m b := by
  induction p generalizing n with
  | nil => simp [trieFollow_cons, trieFollow]
  | cons d p ih => simp only [List.cons_append, trieFollow_cons, ih, Option.bind_assoc]

/-- Arenas with the same links lead every bit-string to the same entry. -/
theorem trieFollow_congr {t t' : Sparse TrieNode} (h : ∀ i b, (trieAt t' i).child b = (trieAt t i).child b) (n : Nat)
    (p : BitString) : trieFollow t' n p = trieFollow t n p := by
  induction p generalizing n with
  | nil => rfl
  | cons b p ih => simp only [trieFollow, h, ih]

/-- A cleared arena has no edge. -/
theorem trieFollow_empty_cons (n : Nat) (b : Bool) (p : BitString) : trieFollow [] n (b :: p) = none := by
  have hcleared : trieEdge [] n b = none := by cases b <;> rfl
  rw [trieFollow_cons, hcleared, Option.bind_none]

theorem trieFind_eq_none {t : Sparse TrieNode} {c : BitString} (h : trieFollow t 0 c = none) : trieFind t c = none := by
  simp [trieFind, h]

theorem trieFind_eq_of_follow {t : Sparse TrieNode} {c : BitString} {n : Nat} (h : trieFollow t 0 c = some n) :
    trieFind t c = if (trieAt t n).leaf then some (trieAt t n).sym else none := by
  simp [trieFind, h]

/-! ### The trie while it is built -/

/-- The arena is a tree below its root: bit-strings lead to entries in use, different ones to different entries. The
size of TRIE plays no part here, since 65281 entries are enough for every table (R12). -/
structure TrieBuild.Tree (t : TrieBuild) : Prop where
  ok : t.Ok 65281
  inUse : ∀ c n, trieFollow t.nodes 0 c = some n → n < t.next
  inj : ∀ c c' n, trieFollow t.nodes 0 c = some n → trieFollow t.nodes 0 c' = some n → c = c'

theorem TrieBuild.tree_empty : TrieBuild.Tree ⟨[], 1⟩ := by
  have hroot : ∀ c n, trieFollow [] 0 c = some n → c = [] ∧ n = 0 := fun c n h => by
    cases c with
    | nil => exact ⟨rfl, (Option.some.inj h).symm⟩
    | cons b c => simp [trieFollow_empty_cons] at h
  exact {
    ok := ⟨Sparse.wf_nil _ _, fun _ b => .inl (by cases b <;> rfl), fun _ _ => rfl⟩
    inUse := fun c n h => (hroot c n h).2 ▸ Nat.one_pos
    inj := fun c c' n h h' => (hroot c n h).1.trans (hroot c' n h').1.symm }

@[simp] theorem TrieNode.leaf_setChild (nd : TrieNode) (b : Bool) (c : BitVec 16) :
    (nd.setChild b c).leaf = nd.leaf := by
  cases b <;> rfl

@[simp] theorem TrieNode.sym_setChild (nd : TrieNode) (b : Bool) (c : BitVec 16) :
    (nd.setChild b c).sym = nd.sym := by
  cases b <;> rfl

section Trie

variable {t : TrieBuild} {cur : Nat} {p : BitString}

theorem TrieBuild.Tree.eq_iff_entry_eq (h : t.Tree) (hcur : trieFollow t.nodes 0 p = some cur) {c : BitString} {m : Nat}
    (hm : trieFollow t.nodes 0 c = some m) : c = p ↔ m = cur := by
  constructor
  · rintro rfl
    exact Option.some.inj (hm.symm.trans hcur)
  · rintro rfl
    exact h.inj _ _ _ hm hcur

theorem trieGrow_of_child {b : Bool} (h : (trieAt t.nodes cur).child b ≠ 0xFFFF#16) : trieGrow cur b t = t := by
  simp [trieGrow, h]

section Grow

variable {b : Bool} (h : t.Tree) (hcur : trieFollow t.nodes 0 p = some cur) (hfit : t.next < 65281)
  (hnil : (trieAt t.nodes cur).child b = 0xFFFF#16)

include hnil

theorem next_trieGrow : (trieGrow cur b t).next = t.next + 1 := by
  simp [trieGrow, hnil]

theorem trieAt_trieGrow (i : Nat) :
    trieAt (trieGrow cur b t).nodes i =
      if i = cur then (trieAt t.nodes cur).setChild b (BitVec.ofNat 16 t.next) else trieAt t.nodes i := by
  simp only [trieGrow, hnil, if_true]
  exact trieAt_set _ _ _ _

include hfit

theorem trieEdge_trieGrow (i : Nat) (d : Bool) :
    trieEdge (trieGrow cur b t).nodes i d = if i = cur ∧ d = b then some t.next else trieEdge t.nodes i d := by
  have hnew : (BitVec.ofNat 16 t.next).toNat = t.next := Nat.mod_eq_of_lt (by omega)
  have hne : BitVec.ofNat 16 t.next ≠ 0xFFFF#16 := fun h => by
    have := congrArg BitVec.toNat h
    rw [hnew] at this
    exact absurd (this.symm.trans_lt hfit) (by decide)
  rw [trieEdge, trieAt_trieGrow hnil]
  by_cases hi : i = cur
  · subst hi
    rw [if_pos rfl, TrieNode.child_setChild]
    by_cases hd : d = b <;> simp [hd, hnew, hne, trieEdge]
  · simp [hi, trieEdge]

include h hcur

/-- One new entry is reached by one new bit-string, and every other bit-string leads where it led (R121). -/
theorem trieFollow_trieGrow (c : BitString) :
    trieFollow (trieGrow cur b t).nodes 0 c = if c = p ++ [b] then some t.next else trieFollow t.nodes 0 c := by
  have hlt : cur < t.next := h.inUse p cur hcur
  induction c using List.reverseRecOn with
  | nil => simp [trieFollow]
  | append_singleton c d ih =>
    rw [trieFollow_snoc, ih, trieFollow_snoc]
    by_cases hc : c = p ++ [b]
    · have hold : trieFollow t.nodes 0 (p ++ [b]) = none := by
        simp [trieFollow_snoc, hcur, trieEdge, hnil]
      have hend : trieEdge t.nodes t.next d = none := by
        rw [trieEdge, h.ok.unused _ le_rfl]
        cases d <;> rfl
      subst hc
      rw [if_pos rfl, Option.bind_some, trieEdge_trieGrow hfit hnil, if_neg (by omega), hend, hold]
      simp
    · rw [if_neg hc]
      rcases hm : trieFollow t.nodes 0 c with _ | m
      · have hne : c ≠ p := fun h => by simp [h, hcur] at hm
        simp [hne]
      · simp only [Option.bind_some, trieEdge_trieGrow hfit hnil, List.append_singleton_inj,
          h.eq_iff_entry_eq hcur hm]

/-- The new entry carries no mark, and the entry it hangs from keeps its own. -/
theorem trieFind_trieGrow (c : BitString) : trieFind (trieGrow cur b t).nodes c = trieFind t.nodes c := by
  have hlt : cur < t.next := h.inUse p cur hcur
  have hfollow := trieFollow_trieGrow h hcur hfit hnil c
  by_cases hc : c = p ++ [b]
  · have hold : trieFollow t.nodes 0 c = none := by
      simp [hc, trieFollow_snoc, hcur, trieEdge, hnil]
    rw [if_pos hc] at hfollow
    rw [trieFind_eq_of_follow hfollow, trieFind_eq_none hold, trieAt_trieGrow hnil, if_neg hlt.ne',
      h.ok.unused _ le_rfl]
    rfl
  · rw [if_neg hc] at hfollow
    rcases hm : trieFollow t.nodes 0 c with _ | m
    · rw [trieFind_eq_none (hfollow.trans hm), trieFind_eq_none hm]
    · rw [trieFind_eq_of_follow (hfollow.trans hm), trieFind_eq_of_follow hm, trieAt_trieGrow hnil]
      by_cases hmc : m = cur <;> simp [hmc]

theorem TrieBuild.Tree.grow_nil : (trieGrow cur b t).Tree where
  ok := (h.ok.grow (h.inUse p cur hcur) hfit le_rfl b).1
  inUse c n hn := by
    rw [trieFollow_trieGrow h hcur hfit hnil] at hn
    rw [next_trieGrow hnil]
    split_ifs at hn
    · cases hn
      exact Nat.lt_succ_self _
    · exact Nat.lt_succ_of_lt (h.inUse c n hn)
  inj c c' n hn hn' := by
    have hfresh : ∀ c, trieFollow t.nodes 0 c ≠ some t.next := fun c hc => lt_irrefl _ (h.inUse c _ hc)
    rw [trieFollow_trieGrow h hcur hfit hnil] at hn hn'
    split_ifs at hn hn' with hc hc' hc'
    · exact hc.trans hc'.symm
    · exact absurd (hn ▸ hn') (hfresh c')
    · exact absurd (hn' ▸ hn) (hfresh c)
    · exact h.inj c c' n hn hn'

end Grow

/-- What one bit of a Code does: the walk goes on to the entry of the longer bit-string, and no mark changes (R121). -/
theorem TrieBuild.Tree.grow (h : t.Tree) (hcur : trieFollow t.nodes 0 p = some cur) (hfit : t.next < 65281) (b : Bool) :
    (trieGrow cur b t).Tree ∧
      trieFollow (trieGrow cur b t).nodes 0 (p ++ [b]) =
        some ((trieAt (trieGrow cur b t).nodes cur).child b).toNat ∧
      ∀ c, trieFind (trieGrow cur b t).nodes c = trieFind t.nodes c := by
  by_cases hnil : (trieAt t.nodes cur).child b = 0xFFFF#16
  · refine ⟨h.grow_nil hcur hfit hnil, ?_, trieFind_trieGrow h hcur hfit hnil⟩
    rw [trieFollow_trieGrow h hcur hfit hnil, if_pos rfl, trieAt_trieGrow hnil, if_pos rfl, TrieNode.child_setChild,
      if_pos rfl, BitVec.toNat_ofNat, Nat.mod_eq_of_lt (by omega)]
  · rw [trieGrow_of_child hnil]
    exact ⟨h, by simp [trieFollow_snoc, hcur, trieEdge, hnil], fun _ => rfl⟩

/-- Walking a Code from the entry of `p` ends at the entry of `p` followed by the Code, and no mark changes (R121). -/
theorem TrieBuild.Tree.insert (c : BitString) (h : t.Tree) (hcur : trieFollow t.nodes 0 p = some cur)
    (hfit : t.next + c.length ≤ 65281) :
    (trieInsert c cur t).2.Tree ∧ trieFollow (trieInsert c cur t).2.nodes 0 (p ++ c) = some (trieInsert c cur t).1 ∧
      ∀ d, trieFind (trieInsert c cur t).2.nodes d = trieFind t.nodes d := by
  induction c generalizing cur p t with
  | nil => exact ⟨h, by rw [List.append_nil]; exact hcur, fun _ => rfl⟩
  | cons b c ih =>
    rw [List.length_cons] at hfit
    obtain ⟨htree, hfollow, hfind⟩ := h.grow hcur (by omega) b
    obtain ⟨-, hle, -⟩ := h.ok.grow (h.inUse p cur hcur) (by omega) le_rfl b
    obtain ⟨htree', hfollow', hfind'⟩ := ih htree hfollow (by omega)
    rw [List.append_assoc] at hfollow'
    exact ⟨htree', hfollow', fun d => (hfind' d).trans (hfind d)⟩

/-- A mark changes no link. -/
theorem trieFollow_trieMark (sym : Nat) (c : BitString) :
    trieFollow (trieMark cur sym t).nodes 0 c = trieFollow t.nodes 0 c := by
  refine trieFollow_congr (fun i b => ?_) 0 c
  rw [trieMark, trieAt_set]
  split_ifs with hi
  · subst hi
    cases b <;> rfl
  · rfl

/-- Marking the entry of `p` gives the Symbol to `p` and to no other bit-string (R121). -/
theorem TrieBuild.Tree.mark (h : t.Tree) (hcur : trieFollow t.nodes 0 p = some cur) (hfit : t.next ≤ 65281)
    (sym : Nat) :
    (trieMark cur sym t).Tree ∧
      ∀ c, trieFind (trieMark cur sym t).nodes c =
        if p = c then some (BitVec.ofNat 8 sym) else trieFind t.nodes c := by
  refine ⟨⟨h.ok.mark (h.inUse p cur hcur) hfit sym, fun c n => ?_, fun c c' n => ?_⟩, fun c => ?_⟩
  · rw [trieFollow_trieMark]
    exact h.inUse c n
  · rw [trieFollow_trieMark, trieFollow_trieMark]
    exact h.inj c c' n
  · rcases hm : trieFollow t.nodes 0 c with _ | m
    · have hne : p ≠ c := fun h => by simp [← h, hcur] at hm
      rw [if_neg hne, trieFind_eq_none ((trieFollow_trieMark sym c).trans hm), trieFind_eq_none hm]
    · rw [trieFind_eq_of_follow ((trieFollow_trieMark sym c).trans hm), trieFind_eq_of_follow hm, trieMark, trieAt_set]
      simp only [eq_comm (a := p), h.eq_iff_entry_eq hcur hm]
      by_cases hmc : m = cur <;> simp [hmc]

theorem TrieBuild.Tree.addSymbol (tab : CodeTable) (sym : Nat) (h : t.Tree) (hfit : t.next + 255 ≤ 65281) :
    (trieAddSymbol tab t sym).Tree ∧ (trieAddSymbol tab t sym).next ≤ t.next + 255 ∧
      ∀ c, trieFind (trieAddSymbol tab t sym).nodes c =
        if 0 < tab.len sym ∧ tab.codeOf sym = c then some (BitVec.ofNat 8 sym) else trieFind t.nodes c := by
  have hroot : 0 < t.next := h.inUse [] 0 rfl
  have hlen : (tab.codeOf sym).length ≤ 255 := (tab.length_codeOf sym).trans_le (tab.len_le sym)
  have hle := (h.ok.addSymbol tab sym hroot hfit le_rfl).2.2
  refine (and_left_comm.1 ⟨hle, ?_⟩)
  unfold trieAddSymbol
  by_cases hpos : 0 < tab.len sym
  · obtain ⟨htree, hfollow, hfind⟩ := h.insert (p := []) (tab.codeOf sym) rfl (by omega)
    obtain ⟨-, hle, -⟩ := h.ok.insert (tab.codeOf sym) hroot (by omega) le_rfl
    obtain ⟨htree', hfind'⟩ := htree.mark hfollow (by omega) sym
    simp only [hpos, if_true, true_and]
    refine ⟨htree', fun c => ?_⟩
    rw [hfind', hfind, List.nil_append]
  · simpa only [hpos, if_false, false_and, implies_true, and_true] using h

end Trie

/-! ### The greatest Symbol with a Code -/

/-- What answers a Symbol after the Symbols below `n` were added in ascending order, each in the place of an earlier one
that satisfies `P` too, answers the greatest of those below `n` that satisfy `P` (R121, R126). -/
theorem eq_some_iff_greatest {find : Nat → Option Symbol} {P : Nat → Prop} [DecidablePred P] (h₀ : find 0 = none)
    {n : Nat} (hn : n ≤ 256) (hs : ∀ k, k < n → find (k + 1) = if P k then some (BitVec.ofNat 8 k) else find k)
    (sym : Symbol) :
    find n = some sym ↔
      sym.toNat < n ∧ P sym.toNat ∧ ∀ u : Symbol, u.toNat < n → P u.toNat → u.toNat ≤ sym.toNat := by
  induction n with
  | zero => simp [h₀]
  | succ n ih =>
    have hnew : (BitVec.ofNat 8 n).toNat = n := Nat.mod_eq_of_lt hn
    rw [hs n (Nat.lt_succ_self n)]
    split_ifs with hP
    · rw [Option.some.injEq, ← BitVec.toNat_inj, hnew]
      constructor
      · intro he
        exact ⟨by omega, he ▸ hP, fun u hu _ => by omega⟩
      · rintro ⟨hlt, -, hmax⟩
        have := hmax (BitVec.ofNat 8 n) (by omega) (by rwa [hnew])
        omega
    · rw [ih (by omega) fun k hk => hs k (by omega)]
      have hdrop : ∀ u : Symbol, P u.toNat → (u.toNat < n + 1 ↔ u.toNat < n) := fun u hu => by
        have hne : u.toNat ≠ n := fun h => hP (h ▸ hu)
        omega
      constructor
      · rintro ⟨hlt, hsym, hmax⟩
        exact ⟨by omega, hsym, fun u hu hPu => hmax u ((hdrop u hPu).1 hu) hPu⟩
      · rintro ⟨hlt, hsym, hmax⟩
        exact ⟨(hdrop sym hsym).1 hlt, hsym, fun u hu hPu => hmax u (by omega) hPu⟩

theorem eq_some_iff_lastWithCode {find : Nat → Option Symbol} {tab : CodeTable} {c : BitString} (h₀ : find 0 = none)
    (hs : ∀ k, k < 256 → find (k + 1) =
      if 0 < tab.len k ∧ tab.codeOf k = c then some (BitVec.ofNat 8 k) else find k) (sym : Symbol) :
    find 256 = some sym ↔ lastWithCode tab c sym := by
  rw [eq_some_iff_greatest h₀ le_rfl hs, lastWithCode]
  have hlt : ∀ u : Symbol, u.toNat < 256 := fun u => u.isLt
  simp only [hlt, true_and, forall_const, and_imp, and_assoc]

/-! ### TRIE -/

/-- The trie after the Symbols below `n` (R121). -/
def trieBelow (tab : CodeTable) (n : Nat) : TrieBuild := (List.range n).foldl (trieAddSymbol tab) ⟨[], 1⟩

theorem trieBelow_succ (tab : CodeTable) (n : Nat) : trieBelow tab (n + 1) = trieAddSymbol tab (trieBelow tab n) n := by
  simp [trieBelow, List.range_succ]

theorem trieBelow_tree (tab : CodeTable) {n : Nat} (hn : n ≤ 256) :
    (trieBelow tab n).Tree ∧ (trieBelow tab n).next ≤ 1 + 255 * n := by
  induction n with
  | zero => exact ⟨TrieBuild.tree_empty, Nat.le_refl 1⟩
  | succ n ih =>
    obtain ⟨htree, hle⟩ := ih (by omega)
    obtain ⟨htree', hle', -⟩ := htree.addSymbol tab n (by omega)
    rw [trieBelow_succ]
    exact ⟨htree', hle'.trans (by omega)⟩

theorem trieFind_trieBelow (tab : CodeTable) (c : BitString) (sym : Symbol) :
    trieFind (trieBelow tab 256).nodes c = some sym ↔ lastWithCode tab c sym := by
  refine eq_some_iff_lastWithCode (find := fun n => trieFind (trieBelow tab n).nodes c) ?_ (fun n hn => ?_) sym
  · cases c with
    | nil => rfl
    | cons b c => exact trieFind_eq_none (t := []) (trieFollow_empty_cons 0 b c)
  · obtain ⟨htree, hle⟩ := trieBelow_tree tab hn.le
    rw [trieBelow_succ]
    exact (htree.addSymbol tab n (by omega)).2.2 c

/-- Settles O42: the trie after all 256 Symbols, whose root alone is in use at the start. -/
theorem trieHoldsTheCodes : Obligations.TrieHoldsTheCodes := by
  unfold Obligations.TrieHoldsTheCodes
  intro s he
  obtain ⟨htree, hle⟩ := trieBelow_tree s.table le_rfl
  have hpos : 0 < (trieBelow s.table 256).next := htree.inUse [] 0 rfl
  have hcount : (BitVec.ofNat 16 (trieBelow s.table 256).next).toNat = (trieBelow s.table 256).next :=
    Nat.mod_eq_of_lt (by omega)
  refine ⟨_, command_ok (body := buildTrie) he rfl, rfl, trieFind_trieBelow s.table,
    ⟨hpos.trans_eq hcount.symm, hcount.trans_le hle⟩, fun i b => ?_, fun i hi => ?_⟩
  · exact (htree.ok.links i b).imp_right fun hlt => BitVec.lt_def.2 (hlt.trans_eq hcount.symm)
  · exact htree.ok.unused i (hcount.symm.trans_le hi)

end Sys2Proof.Machine

/-! PROOFS. The arena that TBLD builds: what every merge keeps of the leaves, the sums and the queue (R42, R104). -/

namespace Sys2Proof.Machine

/-! ### The merges -/

theorem length_erase_erase {q : List Nat} {a b : Nat} (ha : a ∈ q) (hb : b ∈ q.erase a) :
    ((q.erase a).erase b).length + 2 = q.length := by
  have h₁ := List.length_erase_add_one ha
  have h₂ := List.length_erase_add_one hb
  omega

theorem lowest_isSome {nodes : Sparse TreeNode} {q : List Nat} (h : q ≠ []) : ∃ a, lowest nodes q = some a := by
  cases q with
  | nil => exact absurd rfl h
  | cons i q =>
    unfold lowest
    split
    · exact ⟨i, rfl⟩
    · split_ifs <;> exact ⟨_, rfl⟩

/-- Nothing is extracted from the empty queue only. -/
theorem extract_eq_none {nodes : Sparse TreeNode} {q : List Nat} (h : extract nodes q = none) : q = [] := by
  by_contra hq
  obtain ⟨a, ha⟩ := lowest_isSome (nodes := nodes) hq
  simp [extract, ha] at h

/-- What holds of the arena and the queue before the first merge, and is kept by every merge, holds after the last one;
and then at most one member is left (R104). -/
theorem mergeAll_induction {fw : Nat} {P : Sparse TreeNode → List Nat → Nat → Prop}
    (hstep : ∀ nodes q k a b, a ∈ q → b ∈ q.erase a → P nodes q k →
      P (joined fw nodes (256 + k) a b) ((q.erase a).erase b ++ [256 + k]) (k + 1))
    {fuel : Nat} {nodes : Sparse TreeNode} {q : List Nat} {k : Nat} (hfuel : q.length ≤ fuel) (h : P nodes q k) :
    ∃ k', P (mergeAll fw fuel nodes q k).1 (mergeAll fw fuel nodes q k).2 k' ∧
      (mergeAll fw fuel nodes q k).2.length ≤ 1 := by
  induction fuel generalizing nodes q k with
  | zero => exact ⟨k, h, hfuel.trans (Nat.zero_le 1)⟩
  | succ fuel ih =>
    unfold mergeAll
    split
    · next hnone => exact ⟨k, h, by simp [extract_eq_none hnone]⟩
    · next a q₁ ha =>
      obtain ⟨haq, rfl⟩ := extract_eq_some ha
      split
      · next hnone =>
        have hlen := List.length_erase_add_one haq
        rw [extract_eq_none hnone, List.length_nil] at hlen
        exact ⟨k, h, hlen.ge⟩
      · next b q₂ hb =>
        obtain ⟨hbq, rfl⟩ := extract_eq_some hb
        have hlen := length_erase_erase haq hbq
        exact ih (by rw [List.length_append, List.length_singleton]; omega) (hstep _ _ _ _ _ haq hbq h)

/-- The frequencies of the queue's members, added up. -/
def queueFreq (nodes : Sparse TreeNode) (q : List Nat) : Nat := (q.map fun i => (nodeAt nodes i).freq).sum

theorem queueFreq_append (nodes : Sparse TreeNode) (q q' : List Nat) :
    queueFreq nodes (q ++ q') = queueFreq nodes q + queueFreq nodes q' := by
  simp [queueFreq]

/-- A member of the queue and the rest. -/
theorem queueFreq_erase (nodes : Sparse TreeNode) {q : List Nat} {a : Nat} (h : a ∈ q) :
    queueFreq nodes q = (nodeAt nodes a).freq + queueFreq nodes (q.erase a) :=
  ((List.perm_cons_erase h).map fun i => (nodeAt nodes i).freq).sum_eq.trans (List.sum_cons)

theorem queueFreq_joined {fw n a b : Nat} {nodes : Sparse TreeNode} {q : List Nat} (h : n ∉ q) :
    queueFreq (joined fw nodes n a b) q = queueFreq nodes q := by
  unfold queueFreq
  congr 1
  exact List.map_congr_left fun i hi => by rw [nodeAt_joined_other (ne_of_mem_of_not_mem hi h)]

/-! ### One merge -/

/-- An Internal node holds no Symbol, and its frequency is the sum of its children's (R42 b, R104). -/
def SumsChildren (nodes : Sparse TreeNode) (i : Nat) : Prop :=
  (nodeAt nodes i).sym = 0#8 ∧ (nodeAt nodes i).freq =
    (nodeAt nodes (treeChild nodes i false)).freq + (nodeAt nodes (treeChild nodes i true)).freq

section Join

variable {fw : Nat} {nodes : Sparse TreeNode} {n a b i : Nat} (h : Forest fw nodes n) (hn : 256 ≤ n ∧ n ≤ 510)
  (ha : IsRoot nodes a) (hb : IsRoot nodes b)

include h hn

theorem Forest.nodeAt_joined (hv : treeValid nodes i = true) : nodeAt (joined fw nodes n a b) i = nodeAt nodes i :=
  nodeAt_joined_other (h.valid_lt hn.1 hv).ne

/-- A node of the forest keeps its children's frequencies, and so their sum. -/
theorem SumsChildren.joined_other (hi : 256 ≤ i) (hv : treeValid nodes i = true) (hs : SumsChildren nodes i) :
    SumsChildren (joined fw nodes n a b) i := by
  have hne : i ≠ n := (h.valid_lt hn.1 hv).ne
  obtain ⟨-, -, hchild⟩ := h.inner i hi hv
  simpa only [SumsChildren, treeChild_joined_other hne, nodeAt_joined_other hne, h.nodeAt_joined hn (hchild _).2]
    using hs

include ha hb

/-- The new node's frequency is the sum, where that fits its width (R104). -/
theorem sumsChildren_joined_new (hfits : (nodeAt nodes a).freq + (nodeAt nodes b).freq < 2 ^ fw) :
    SumsChildren (joined fw nodes n a b) n := by
  have hchild := treeChild_joined_new h hn ha hb
  refine ⟨by rw [nodeAt_joined_new]; rfl, ?_⟩
  rw [hchild, hchild, if_neg Bool.false_ne_true, if_pos rfl, h.nodeAt_joined hn ha.1, h.nodeAt_joined hn hb.1,
    nodeAt_joined_new]
  exact trunc_of_lt hfits

/-- The roots after a merge are the new node and the old roots that were not merged. -/
theorem isRoot_of_joined (hi : IsRoot (joined fw nodes n a b) i) (hne : i ≠ n) :
    IsRoot nodes i ∧ i ≠ a ∧ i ≠ b := by
  obtain ⟨hv, hfree⟩ := hi
  rw [treeValid_joined_other hne] at hv
  have hnew : ∀ d : Bool, (if d then b else a) ≠ i := fun d => by
    rw [← treeChild_joined_new h hn ha hb]
    exact hfree n d hn.1 treeValid_joined_new
  refine ⟨⟨hv, fun j d hj hvj => ?_⟩, (hnew false).symm, (hnew true).symm⟩
  rw [← treeChild_joined_other (h.valid_lt hn.1 hvj).ne]
  exact hfree j d hj (h.valid_joined hn.1 hvj)

end Join

/-! ### The arena between two merges -/

/-- What the merges keep besides `QueueOk`: the leaves of the Symbols present stand at their indices, the first `k`
Internal nodes add up their children, the queue holds every root, the newest node among them, and its frequencies fit
their width together. -/
structure ArenaOk (fw : Nat) (freq : Sparse Nat) (nodes : Sparse TreeNode) (q : List Nat) (k : Nat) : Prop where
  queue : QueueOk fw nodes q k
  leaf : ∀ i, i < 256 → nodeAt nodes i =
    if 0 < Sparse.get 0 freq i then leafNode i (Sparse.get 0 freq i) else TreeNode.cleared
  inner : ∀ i, 256 ≤ i → (treeValid nodes i = true ↔ i < 256 + k)
  sums : ∀ i, 256 ≤ i → treeValid nodes i = true → SumsChildren nodes i
  complete : ∀ i, IsRoot nodes i → i ∈ q
  newest : 0 < k → 255 + k ∈ q
  count : q.length + k = (presentSymbols freq).length
  fits : queueFreq nodes q < 2 ^ fw

theorem ArenaOk.merge {fw : Nat} {freq : Sparse Nat} {nodes : Sparse TreeNode} {q : List Nat} {k a b : Nat}
    (h : ArenaOk fw freq nodes q k) (ha : a ∈ q) (hb : b ∈ q.erase a) :
    ArenaOk fw freq (joined fw nodes (256 + k) a b) ((q.erase a).erase b ++ [256 + k]) (k + 1) := by
  have hforest := h.queue.forest
  have hlen := length_erase_erase ha hb
  have hsize := h.queue.size
  have hn : 256 ≤ 256 + k ∧ 256 + k ≤ 510 := by omega
  have hra : IsRoot nodes a := h.queue.roots a ha
  have hrb : IsRoot nodes b := h.queue.roots b (List.mem_of_mem_erase hb)
  have hfreq : queueFreq nodes q =
      (nodeAt nodes a).freq + ((nodeAt nodes b).freq + queueFreq nodes ((q.erase a).erase b)) := by
    rw [queueFreq_erase nodes ha, queueFreq_erase nodes hb]
  have hfits := h.fits
  have hnew : (internalNode fw nodes a b).freq = (nodeAt nodes a).freq + (nodeAt nodes b).freq :=
    trunc_of_lt (by omega)
  have hfresh : 256 + k ∉ (q.erase a).erase b := fun hmem =>
    lt_irrefl _ (hforest.valid_lt hn.1 (h.queue.roots _ (List.mem_of_mem_erase (List.mem_of_mem_erase hmem))).1)
  exact {
    queue := h.queue.merge ha hb
    leaf := fun i hi => by
      rw [nodeAt_joined_other (by omega)]
      exact h.leaf i hi
    inner := fun i hi => by
      rcases eq_or_ne i (256 + k) with rfl | hne
      · exact iff_of_true treeValid_joined_new (Nat.lt_succ_self _)
      · rw [treeValid_joined_other hne, h.inner i hi]
        omega
    sums := fun i hi hv => by
      rcases eq_or_ne i (256 + k) with rfl | hne
      · exact sumsChildren_joined_new hforest hn hra hrb (by omega)
      · rw [treeValid_joined_other hne] at hv
        exact (h.sums i hi hv).joined_other hforest hn hi hv
    complete := fun i hi => by
      rcases eq_or_ne i (256 + k) with rfl | hne
      · exact List.mem_append_right _ (List.mem_singleton_self _)
      · obtain ⟨hroot, hia, hib⟩ := isRoot_of_joined hforest hn hra hrb hi hne
        have hmem : i ∈ (q.erase a).erase b :=
          (List.mem_erase_of_ne hib).2 ((List.mem_erase_of_ne hia).2 (h.complete i hroot))
        exact List.mem_append_left _ hmem
    newest := fun _ => List.mem_append_right _ (List.mem_singleton.2 (by omega))
    count := by
      have hcount := h.count
      rw [List.length_append, List.length_singleton]
      omega
    fits := by
      have hlast : queueFreq (joined fw nodes (256 + k) a b) [256 + k] =
          (nodeAt nodes a).freq + (nodeAt nodes b).freq := by
        simp [queueFreq, nodeAt_joined_new, hnew]
      rw [queueFreq_append, queueFreq_joined hfresh, hlast]
      omega }

/-! ### The leaves -/

theorem mem_presentSymbols {freq : Sparse Nat} {i : Nat} :
    i ∈ presentSymbols freq ↔ i < 256 ∧ 0 < Sparse.get 0 freq i := by
  simp [presentSymbols]

/-- FREQ without what is listed outside its 256 counters. -/
def counters (freq : Sparse Nat) : Sparse Nat := freq.filter fun e => decide (e.1 < 256)

theorem get_counters (freq : Sparse Nat) (i : Nat) :
    Sparse.get 0 (counters freq) i = if i < 256 then Sparse.get 0 freq i else 0 := by
  induction freq with
  | nil => simp [counters]
  | cons e freq ih =>
    obtain ⟨j, v⟩ := e
    unfold counters Sparse.get at ih ⊢
    rcases eq_or_ne i j with rfl | hne
    · by_cases hi : i < 256 <;> simp_all [Sparse.find?]
    · by_cases hj : j < 256 <;> simp_all [Sparse.find?]

theorem presentSymbols_counters (freq : Sparse Nat) : presentSymbols (counters freq) = presentSymbols freq :=
  List.filter_congr fun i hi => by rw [get_counters, if_pos (List.mem_range.1 hi)]

/-- TBLD reads FREQ inside its space only (R104). -/
theorem plantLeaves_counters (freq : Sparse Nat) :
    plantLeaves (counters freq) (presentSymbols freq) = plantLeaves freq (presentSymbols freq) :=
  List.foldl_ext _ _ _ fun m i hi => by rw [get_counters, if_pos (mem_presentSymbols.1 hi).1]

section Leaves

variable {freq : Sparse Nat} {i : Nat}

theorem nodeAt_leaves (freq : Sparse Nat) (i : Nat) : nodeAt (plantLeaves freq (presentSymbols freq)) i =
    if i < 256 ∧ 0 < Sparse.get 0 freq i then leafNode i (Sparse.get 0 freq i) else TreeNode.cleared := by
  rw [plantLeaves, nodeAt_plantLeaves]
  simp only [mem_presentSymbols]
  rfl

theorem treeValid_leaves :
    treeValid (plantLeaves freq (presentSymbols freq)) i = true ↔ i ∈ presentSymbols freq := by
  rw [treeValid, nodeAt_leaves, mem_presentSymbols]
  split_ifs with hi <;> simp [hi, leafNode, TreeNode.cleared]

/-- All frequencies together fit in LEN_W + 8 bits: there are 256 of LEN_W bits (R41). -/
theorem queueFreq_leaves_lt {w : Nat} (hf : ∀ i, i < 256 → Sparse.get 0 freq i < 2 ^ w) :
    queueFreq (plantLeaves freq (presentSymbols freq)) (presentSymbols freq) < 2 ^ (w + 8) := by
  have hle : ∀ v ∈ (presentSymbols freq).map fun i => (nodeAt (plantLeaves freq (presentSymbols freq)) i).freq,
      v ≤ 2 ^ w - 1 := fun v hv => by
    obtain ⟨i, hi, rfl⟩ := List.mem_map.1 hv
    rw [nodeAt_leaves, if_pos (mem_presentSymbols.1 hi)]
    exact Nat.le_sub_one_of_lt (hf i (mem_presentSymbols.1 hi).1)
  have hpos : 0 < 2 ^ w := Nat.two_pow_pos w
  calc queueFreq (plantLeaves freq (presentSymbols freq)) (presentSymbols freq)
      ≤ (presentSymbols freq).length * (2 ^ w - 1) := by
        simpa [queueFreq] using List.sum_le_card_nsmul _ _ hle
    _ ≤ 256 * (2 ^ w - 1) := Nat.mul_le_mul_right _ (length_presentSymbols_le freq)
    _ < 2 ^ (w + 8) := by rw [Nat.pow_add]; omega

/-- The arena before the first merge (R104). -/
theorem arenaOk_leaves {w : Nat} (hf : ∀ i, i < 256 → Sparse.get 0 freq i < 2 ^ w) :
    ArenaOk (w + 8) freq (plantLeaves freq (presentSymbols freq)) (presentSymbols freq) 0 := by
  have hnone : ∀ i, 256 ≤ i → ¬ treeValid (plantLeaves freq (presentSymbols freq)) i = true := fun i hi hv =>
    absurd (mem_presentSymbols.1 (treeValid_leaves.1 hv)).1 (Nat.not_lt.2 hi)
  have hwide : ∀ i, Sparse.get 0 (counters freq) i < 2 ^ (w + 8) := fun i => by
    rw [get_counters]
    split_ifs with hi
    · exact (hf i hi).trans_le (Nat.pow_le_pow_right (by omega) (by omega))
    · exact Nat.two_pow_pos _
  have hqueue := queueOk_plantLeaves hwide
  rw [presentSymbols_counters, plantLeaves_counters] at hqueue
  exact {
    queue := hqueue
    leaf := fun i hi => by simp only [nodeAt_leaves, hi, true_and]
    inner := fun i hi => iff_of_false (hnone i hi) (Nat.not_lt.2 hi)
    sums := fun i hi hv => absurd hv (hnone i hi)
    complete := fun i hi => treeValid_leaves.1 hi.1
    newest := fun h => absurd h (lt_irrefl 0)
    count := rfl
    fits := queueFreq_leaves_lt hf }

end Leaves

/-! ### The finished arena -/

/-- ROOT for the queue that the merges leave (R104). -/
def rootOf : List Nat → BitVec 9
  | [r] => BitVec.ofNat 9 r
  | _ => 0x1FF#9

/-- The arena and the queue after the last merge (R104). -/
def builtTree (s : State) : Sparse TreeNode × List Nat :=
  mergeAll (s.cfg.lenW + 8) (presentSymbols s.freq).length (plantLeaves s.freq (presentSymbols s.freq))
    (presentSymbols s.freq) 0

theorem buildTree_eq (s : State) : buildTree s = .ok { s with
    node := (builtTree s).1, root := rootOf (builtTree s).2,
    nleaf := BitVec.ofNat 9 (presentSymbols s.freq).length } := rfl

theorem arenaOk_builtTree {s : State} (hf : ∀ i, i < 256 → Sparse.get 0 s.freq i < 2 ^ s.cfg.lenW) :
    ∃ k, ArenaOk (s.cfg.lenW + 8) s.freq (builtTree s).1 (builtTree s).2 k ∧ (builtTree s).2.length ≤ 1 :=
  mergeAll_induction (P := ArenaOk (s.cfg.lenW + 8) s.freq) (fun _ _ _ _ _ ha hb h => h.merge ha hb) le_rfl
    (arenaOk_leaves hf)

namespace ArenaOk

variable {fw : Nat} {freq : Sparse Nat} {nodes : Sparse TreeNode} {q : List Nat} {k : Nat}
  (h : ArenaOk fw freq nodes q k)

include h

theorem treeValid_leaf {i : Nat} (hi : i < 256) : treeValid nodes i = true ↔ 0 < Sparse.get 0 freq i := by
  rw [treeValid, h.leaf i hi]
  split_ifs with hpos <;> simp [hpos, leafNode, TreeNode.cleared]

/-- A node that is no member of the queue is the child of exactly one node (R42 c). -/
theorem existsUnique_owner {n : Nat} (hv : treeValid nodes n = true) (hq : n ∉ q) :
    ∃! e : Nat × Bool,
      treeValid nodes e.1 = true ∧ (nodeAt nodes e.1).tag = true ∧ treeChild nodes e.1 e.2 = n := by
  have howned : ∃ j d, 256 ≤ j ∧ treeValid nodes j = true ∧ treeChild nodes j d = n := by
    by_contra hno
    push Not at hno
    exact hq (h.complete n ⟨hv, hno⟩)
  obtain ⟨j, d, hj, hvj, hjd⟩ := howned
  refine ⟨(j, d), ⟨hvj, (h.queue.forest.inner j hj hvj).2.1, hjd⟩, ?_⟩
  rintro ⟨i, c⟩ ⟨hvi, htag, hic⟩
  have hi : 256 ≤ i := by
    by_contra hlt
    have hleaf := (h.queue.forest.leaf i (Nat.lt_of_not_le hlt) hvi).1
    exact absurd (htag.symm.trans hleaf) Bool.noConfusion
  obtain ⟨rfl, rfl⟩ := h.queue.forest.owner i j c d hi hj hvi hvj (hic.trans hjd.symm)
  rfl

/-- Before the first merge every node is a root, and a member of the queue. -/
theorem treeValid_iff_mem (hk : k = 0) (i : Nat) : treeValid nodes i = true ↔ i ∈ q := by
  subst hk
  exact ⟨fun hv => h.complete i ⟨hv, fun j _ hj hvj => absurd ((h.inner j hj).1 hvj) (Nat.not_lt.2 hj)⟩,
    fun hi => (h.queue.roots i hi).1⟩

theorem toNat_rootOf {r : Nat} (hq : q = [r]) : (rootOf q).toNat = r := by
  subst hq
  have hsize := h.queue.size
  have hr := h.queue.forest.valid_lt (by omega) (h.queue.roots r (List.mem_singleton_self r)).1
  rw [List.length_singleton] at hsize
  exact Nat.mod_eq_of_lt (show r < 512 by omega)

/-- When at most one member is left it is the root, and no member is left only if no Symbol is present. -/
theorem finished (hlen : q.length ≤ 1) :
    (q = [] ∧ k = 0 ∧ (presentSymbols freq).length = 0) ∨
      (∃ r, q = [r] ∧ (rootOf q).toNat = r ∧ k + 1 = (presentSymbols freq).length) := by
  have hcount := h.count
  match q, hlen, h with
  | [], _, h =>
    have hk : ¬ 0 < k := fun hk => List.not_mem_nil (h.newest hk)
    rw [List.length_nil] at hcount
    exact .inl ⟨rfl, by omega, by omega⟩
  | [r], _, h =>
    rw [List.length_singleton] at hcount
    exact .inr ⟨r, rfl, h.toNat_rootOf rfl, by omega⟩

theorem not_mem_of_ne_root (hlen : q.length ≤ 1) {n : Nat} (hn : n ≠ (rootOf q).toNat) : n ∉ q := by
  obtain ⟨hq, -⟩ | ⟨r, hq, hr, -⟩ := h.finished hlen
  · simp [hq]
  · rw [hr] at hn
    simpa [hq] using hn

/-- The empty tree, the sole Leaf, and two leaves or more (R42 d, R104). -/
theorem leafCounts (hlen : q.length ≤ 1) :
    ((presentSymbols freq).length = 0 → rootOf q = 0x1FF#9 ∧ ∀ n, treeValid nodes n = false) ∧
    ((presentSymbols freq).length = 1 →
      (rootOf q).toNat < 256 ∧ ∀ n, treeValid nodes n = true ↔ n = (rootOf q).toNat) ∧
    (2 ≤ (presentSymbols freq).length → (rootOf q).toNat = 256 + (presentSymbols freq).length - 2 ∧
      ∀ n, 256 ≤ n → (treeValid nodes n = true ↔ n ≤ 256 + (presentSymbols freq).length - 2)) := by
  obtain ⟨hq, hk, hl⟩ | ⟨r, hq, hr, hl⟩ := h.finished hlen
  · refine ⟨fun _ => ⟨by rw [hq]; rfl, fun n => ?_⟩, fun h₁ => by omega, fun h₂ => by omega⟩
    rw [← Bool.not_eq_true, h.treeValid_iff_mem hk, hq]
    exact List.not_mem_nil
  · refine ⟨fun h₀ => by omega, fun h₁ => ?_, fun h₂ => ⟨?_, fun n hn => ?_⟩⟩
    · have hk : k = 0 := by omega
      have hmem : r ∈ q := by simp [hq]
      have hlt := h.queue.forest.valid_lt (by omega) (h.queue.roots r hmem).1
      rw [hr]
      exact ⟨by omega, fun n => by rw [h.treeValid_iff_mem hk, hq, List.mem_singleton]⟩
    · have hnewest := h.newest (by omega)
      rw [hq, List.mem_singleton] at hnewest
      omega
    · rw [h.inner n hn]
      omega

end ArenaOk

/-- Settles O31: the arena after the last merge, whose queue holds at most the root. -/
theorem tbldBuildsTheArena : Obligations.TbldBuildsTheArena := by
  unfold Obligations.TbldBuildsTheArena
  intro s he _ hf
  obtain ⟨k, h, hlen⟩ := arenaOk_builtTree hf
  have hleaves : (presentSymbols s.freq).length < 512 := (length_presentSymbols_le s.freq).trans_lt (by omega)
  refine ⟨_, command_ok he (buildTree_eq s), rfl, fun i hi => h.treeValid_leaf hi, fun i hi hv => ?_,
    fun n hn hv => ?_, fun n hv hn => h.existsUnique_owner hv (h.not_mem_of_ne_root hlen hn),
    Nat.mod_eq_of_lt hleaves, h.leafCounts hlen⟩
  · exact (h.leaf i hi).trans (if_pos ((h.treeValid_leaf hi).1 hv))
  · exact ⟨(h.queue.forest.inner n hn hv).2.1, h.sums n hn hv⟩

end Sys2Proof.Machine

/-! PROOFS. The memories and the host port: the step of a command word, what a host write changes and leaves, the layout
of NODE and TRIE elements, and the canonical form of every memory, kept by every step. -/

namespace Sys2Proof.Machine

open Sys2Proof.Claims

/-- Settles O5: a pending command word runs as `hostCmd`, which dispatches on the decoded command. -/
theorem stepRunsTheDecodedCommand : Obligations.StepRunsTheDecodedCommand := by
  unfold Obligations.StepRunsTheDecodedCommand
  intro s w rest i hp hw
  rw [step_host hp, runHostStep, hostCmd, hw]

/-! ### What a host write changes -/

/-- Different ids are different spaces (R60). -/
theorem Space.ofId_inj {m n : Nat} {sp : Space} (hm : Space.ofId m = some sp) (hn : Space.ofId n = some sp) : m = n :=
  (List.getElem?_inj (List.getElem?_eq_some_iff.1 hm).1 (by decide)).1 (hm.trans hn.symm)

theorem Space.ofId_id (sp : Space) : Space.ofId sp.id = some sp := by
  cases sp <;> rfl

/-- Different indices are different registers (R21). -/
theorem Reg.ofIndex_inj {m n : Nat} {r : Reg} (hm : Reg.ofIndex m = some r) (hn : Reg.ofIndex n = some r) : m = n :=
  (List.getElem?_inj (List.getElem?_eq_some_iff.1 hm).1 (by decide)).1 (hm.trans hn.symm)

theorem State.hostWrite_of_lt {s : State} {id i : Nat} {sp : Space} (v : Nat) (hid : Space.ofId id = some sp)
    (hi : i < s.size sp) : s.hostWrite id i v = s.setElement i v sp := by
  simp [State.hostWrite, hid, hi]

/-- Everything a host write can do: nothing, or one write inside a space. -/
theorem State.hostWrite_cases (s : State) (id i v : Nat) :
    s.hostWrite id i v = s ∨
      ∃ sp, Space.ofId id = some sp ∧ i < s.size sp ∧ s.hostWrite id i v = s.setElement i v sp := by
  cases hid : Space.ofId id with
  | none => exact .inl (by simp [State.hostWrite, hid])
  | some sp =>
    by_cases hi : i < s.size sp
    · exact .inr ⟨sp, rfl, hi, State.hostWrite_of_lt v hid hi⟩
    · exact .inl (by simp [State.hostWrite, hid, hi])

/-- A write inside the register space writes the register of that index, or nothing. -/
theorem State.setElement_reg_cases (s : State) (i v : Nat) :
    s.setElement i v .reg = s ∨ ∃ r, Reg.ofIndex i = some r ∧ s.setElement i v .reg = s.writeReg v r := by
  cases hr : Reg.ofIndex i with
  | none => exact .inl (by simp [State.setElement, hr])
  | some r => exact .inr ⟨r, rfl, by simp [State.setElement, hr]⟩

theorem State.readReg_writeReg_other (s : State) (v : Nat) {r r' : Reg} (h : r' ≠ r) :
    (s.writeReg v r).readReg r' = s.readReg r' := by
  cases r with
  | ilen | nsym | klen =>
    cases r' <;> simp [State.readReg, State.writeReg, State.status, State.estop] at h ⊢
  | _ => rfl

/-- A write to the register of index `i` changes no other element of any space. -/
theorem State.element_writeReg_other (s : State) (v : Nat) {i i' : Nat} {r : Reg} (hr : Reg.ofIndex i = some r)
    {sp : Space} (h : ¬ (sp = .reg ∧ i' = i)) : (s.writeReg v r).element i' sp = s.element i' sp := by
  cases sp with
  | reg =>
    cases hr' : Reg.ofIndex i' with
    | none => simp [State.element, hr']
    | some r' =>
      have hne : r' ≠ r := fun he => h ⟨rfl, Reg.ofIndex_inj hr' (he ▸ hr)⟩
      simp [State.element, hr', s.readReg_writeReg_other v hne]
  | _ => cases r <;> rfl

/-- A write to one element changes no other element of any space. -/
theorem State.element_setElement_other (s : State) (v : Nat) {i i' : Nat} {sp sp' : Space}
    (h : ¬ (sp' = sp ∧ i' = i)) : (s.setElement i v sp).element i' sp' = s.element i' sp' := by
  cases sp with
  | reg =>
    obtain hset | ⟨r, hr, hset⟩ := s.setElement_reg_cases i v
    · rw [hset]
    · rw [hset, s.element_writeReg_other v hr h]
  | _ =>
    cases sp' with
    | reg => rfl
    -- Only the memory written can read otherwise, and `h` says it is read at another index.
    | _ => simp_all [State.element, State.setElement, Memory.read_write, Sparse.get_set_other]

theorem State.hostRead_congr {s t : State} {id i : Nat} {sp : Space} (hid : Space.ofId id = some sp)
    (hsize : t.size sp = s.size sp) (hel : t.element i sp = s.element i sp) : t.hostRead id i = s.hostRead id i := by
  simp only [State.hostRead, hid, hsize, hel]

/-- `t` differs from `s` at most in what a host may write (R60, R62). -/
def HostWritten (s t : State) : Prop :=
  t = { s with
    ilen := t.ilen, nsym := t.nsym, klen := t.klen, ibuf := t.ibuf, key := t.key, freq := t.freq, table := t.table }

theorem HostWritten.of_eq {s t : State} (h : t = s) : HostWritten s t := by
  subst h
  rfl

theorem hostWritten_setElement (s : State) (i v : Nat) (sp : Space) : HostWritten s (s.setElement i v sp) := by
  cases sp with
  | reg =>
    obtain h | ⟨r, -, h⟩ := s.setElement_reg_cases i v
    · exact .of_eq h
    · rw [h]
      cases r <;> rfl
  | _ => rfl

theorem HostWritten.size_eq {s t : State} (h : HostWritten s t) (sp : Space) : t.size sp = s.size sp := by
  rw [h]
  cases sp <;> rfl

theorem hostWritten_hostWrite (s : State) (id i v : Nat) : HostWritten s (s.hostWrite id i v) := by
  obtain h | ⟨sp, -, -, h⟩ := s.hostWrite_cases id i v
  · exact .of_eq h
  · exact h ▸ hostWritten_setElement s i v sp

/-- A host write, whether it takes effect or not, leaves every element but the one it names (R62). -/
theorem State.hostRead_hostWrite_other (s : State) (v : Nat) {id i id' i' : Nat} (h : ¬ (id' = id ∧ i' = i)) :
    (s.hostWrite id i v).hostRead id' i' = s.hostRead id' i' := by
  obtain hw | ⟨sp, hid, -, hw⟩ := s.hostWrite_cases id i v
  · rw [hw]
  cases hid' : Space.ofId id' with
  | none => simp [State.hostRead, hid']
  | some sp' =>
    rw [hw]
    refine State.hostRead_congr hid' ((hostWritten_setElement s i v sp).size_eq sp')
      (s.element_setElement_other v fun hsame => h ?_)
    obtain ⟨rfl, hi⟩ := hsame
    exact ⟨Space.ofId_inj hid' hid, hi⟩

/-- The elements a host write may change, space by space (R60, R62). -/
theorem hostWritable_iff (c : Config) (id i : Nat) :
    hostWritable c id i = true ↔
      (id = 0 ∧ (i = 4 ∨ i = 6 ∨ i = 7)) ∨ (id = 1 ∧ i < c.bufBytes) ∨ (id = 3 ∧ i < c.keyBytes) ∨
        (id = 4 ∧ i < 256) ∨ (id = 5 ∧ i < 256) ∨ (id = 6 ∧ i < 8192) := by
  simp [hostWritable, or_assoc]

/-- An element inside a space reads, after a host write to it, as the element written. -/
theorem State.hostRead_hostWrite_same {s : State} {id i : Nat} {sp : Space} (v : Nat) (hid : Space.ofId id = some sp)
    (hi : i < s.size sp) : (s.hostWrite id i v).hostRead id i = (s.setElement i v sp).element i sp := by
  rw [State.hostWrite_of_lt v hid hi, State.hostRead_of_lt hid]
  rwa [(hostWritten_setElement s i v sp).size_eq]

/-- A host-writable element takes the value truncated to its width (R62). -/
theorem State.hostRead_hostWrite_writable {s : State} {id i : Nat} (v : Nat) (h : hostWritable s.cfg id i = true) :
    (s.hostWrite id i v).hostRead id i = v % 2 ^ elementWidth s.cfg id i := by
  rw [hostWritable_iff] at h
  obtain ⟨rfl, rfl | rfl | rfl⟩ | ⟨rfl, hi⟩ | ⟨rfl, hi⟩ | ⟨rfl, hi⟩ | ⟨rfl, hi⟩ | ⟨rfl, hi⟩ := h
  · rfl
  · rfl
  · rfl
  all_goals
    rw [State.hostRead_hostWrite_same v rfl hi]
    simp [State.element, State.setElement, Memory.read_write, trunc, elementWidth]

/-- The registers a host may write stand at the indices 4, 6 and 7 (R21). -/
theorem State.writeReg_readOnly (s : State) (v : Nat) {i : Nat} {r : Reg} (hr : Reg.ofIndex i = some r)
    (h : ¬ (i = 4 ∨ i = 6 ∨ i = 7)) : s.writeReg v r = s := by
  cases r with
  | ilen => exact absurd (.inl (Reg.ofIndex_inj hr rfl)) h
  | nsym => exact absurd (.inr (.inl (Reg.ofIndex_inj hr rfl))) h
  | klen => exact absurd (.inr (.inr (Reg.ofIndex_inj hr rfl))) h
  | _ => rfl

/-- A write to a read-only element changes nothing (R60, R62). -/
theorem State.hostWrite_readOnly {s : State} {id i : Nat} (v : Nat) (h : hostWritable s.cfg id i = false) :
    s.hostWrite id i v = s := by
  rw [← Bool.not_eq_true, hostWritable_iff] at h
  obtain hw | ⟨sp, hid, hi, hw⟩ := s.hostWrite_cases id i v
  · exact hw
  rw [hw]
  cases sp with
  | reg =>
    obtain hset | ⟨r, hr, hset⟩ := s.setElement_reg_cases i v
    · exact hset
    · exact hset.trans (s.writeReg_readOnly v hr fun hreg => h (.inl ⟨Space.ofId_inj hid rfl, hreg⟩))
  | obuf | node | trie => rfl
  | ibuf | key | freq | clen | cbits =>
    obtain rfl := Space.ofId_inj hid (Space.ofId_id _)
    exact absurd hi (by simpa [Space.id, allSpaces, State.size] using h)

/-- Settles O10: the effect of a host write on a writable element, on the others, and on the rest of the state. -/
theorem hostWriteChangesOneElement : Obligations.HostWriteChangesOneElement := by
  unfold Obligations.HostWriteChangesOneElement
  intro s sp i v
  exact ⟨fun _ hp => step_host hp,
    fun hw => ⟨s.hostRead_hostWrite_writable v hw, fun _ _ h => s.hostRead_hostWrite_other v h,
      hostWritten_hostWrite s sp i v⟩,
    s.hostWrite_readOnly v⟩

/-! ### The layout of NODE and TRIE elements -/

/-- A concatenation read as a number: the left part in the high bits (R13). -/
theorem toNat_append_eq {m n : Nat} (x : BitVec m) (y : BitVec n) :
    (x ++ y).toNat = x.toNat * 2 ^ n + y.toNat := by
  rw [BitVec.toNat_append, ← Nat.shiftLeft_add_eq_or_of_lt y.isLt, Nat.shiftLeft_eq]

theorem TreeNode.pack_eq (c : Config) {nd : TreeNode} (h : nd.freq < 2 ^ (c.lenW + 8)) :
    nd.pack c = (BitVec.ofBool nd.valid ++ BitVec.ofBool nd.tag ++ nd.sym ++ nd.key ++ nd.left ++ nd.right).toNat *
      2 ^ (c.lenW + 8) + nd.freq := by
  simp only [TreeNode.pack, joinFields, List.foldl, Nat.zero_mul, Nat.zero_add, ← BitVec.toNat_ofBool,
    BitVec.toNat_mod_cancel, Nat.mod_eq_of_lt h, toNat_append_eq]

theorem TrieNode.pack_eq (nd : TrieNode) :
    nd.pack = (BitVec.ofBool nd.leaf ++ nd.sym ++ nd.ch1 ++ nd.ch0).toNat := by
  simp only [TrieNode.pack, joinFields, List.foldl, Nat.zero_mul, Nat.zero_add, ← BitVec.toNat_ofBool,
    BitVec.toNat_mod_cancel, toNat_append_eq]

/-- Settles O12: an element inside NODE or TRIE reads as its fields packed, and packing is concatenation. -/
theorem structuredElementLayout : Obligations.StructuredElementLayout := by
  unfold Obligations.StructuredElementLayout
  intro s i
  refine ⟨fun hi hf => ?_, fun hi => ?_⟩
  · exact (State.hostRead_of_lt (sp := .node) rfl hi).trans (TreeNode.pack_eq s.cfg hf)
  · exact (State.hostRead_of_lt (sp := .trie) rfl hi).trans (TrieNode.pack_eq _)

/-! ### The canonical form of the memories -/

section Canonical

variable {s t : State}

theorem State.Canonical.clearAll (h : s.Canonical) : s.clearAll.Canonical :=
  ⟨h.ibuf, h.obuf, h.key, rfl, rfl, rfl, rfl, rfl, rfl⟩

theorem State.canonical_hardwareReset (s : State) : s.hardwareReset.Canonical :=
  ⟨⟨rfl, rfl⟩, ⟨rfl, rfl⟩, ⟨rfl, rfl⟩, rfl, rfl, rfl, rfl, rfl, rfl⟩

theorem State.Canonical.withTable (h : s.Canonical) {tab : CodeTable} (ht : tab.Canonical) :
    { s with table := tab }.Canonical :=
  { h with clen := ht.1, cbits := ht.2 }

theorem State.Canonical.withMap (h : s.Canonical) {m : Sparse Symbol} (hm : Sparse.rising m = true) (n : BitVec 9) :
    { s with map := m, mcnt := n }.Canonical :=
  { h with map := hm }

/-- A command keeps the memories canonical if its effect does: a fault writes no memory. -/
theorem command_keeps_canonical {body : State → Except Raised State} (h : s.Canonical)
    (ht : command body s = .next t) (hb : ∀ u, body s = .ok u → u.Canonical) : t.Canonical := by
  obtain ⟨-, rfl⟩ | ⟨-, u, hu, rfl⟩ | ⟨-, r, -, rfl⟩ := command_cases ht
  · exact h
  · exact { hb u hu with }
  · exact { h with }

/-- A fault of an output command leaves OBUF listing nothing (R197). -/
theorem outputCommand_keeps_canonical {body : State → Except Raised State} (h : s.Canonical)
    (ht : outputCommand body s = .next t) (hb : ∀ u, body s = .ok u → u.Canonical) : t.Canonical := by
  obtain ⟨-, rfl⟩ | ⟨-, u, hu, rfl⟩ | ⟨-, r, -, rfl⟩ := outputCommand_cases ht
  · exact h
  · exact { hb u hu with }
  · exact { h with obuf := ⟨rfl, rfl⟩ }

/-- Bytes written from the start of a memory, within its size, keep it canonical. -/
theorem Memory.canonical_writeBytes {m : Memory} {n : Nat} {vs : List Byte} (h : m.wf = true ∧ m.within n = true)
    (hlen : vs.length ≤ n) : (m.writeBytes 0 vs).wf = true ∧ (m.writeBytes 0 vs).within n = true :=
  ⟨Memory.wf_writeBytes 0 vs h.1, Memory.within_writeBytes 0 vs h.2 (by omega)⟩

theorem swapBuffers_keeps_canonical (h : s.Canonical) (ht : swapBuffers s = .ok t) : t.Canonical := by
  unfold swapBuffers at ht
  split_ifs at ht
  cases ht
  exact { h with ibuf := h.obuf, obuf := h.ibuf }

theorem cipherBuffer_keeps_canonical {f : State → Nat → Byte → Byte} {b : BufSel} (h : s.Canonical)
    (ht : cipherBuffer f b s = .ok t) : t.Canonical := by
  unfold cipherBuffer at ht
  split_ifs at ht with hlen
  cases ht
  have hfit : ((List.range (s.len b)).map fun i => f s i ((s.buf b).read i)).length ≤ s.cfg.bufBytes := by
    simpa using hlen
  cases b with
  | input => exact { h with ibuf := Memory.canonical_writeBytes h.ibuf hfit }
  | output => exact { h with obuf := Memory.canonical_writeBytes h.obuf hfit }

theorem hashBuffer_keeps_canonical {b : BufSel} (h : s.Canonical) (ht : hashBuffer b s = .ok t) : t.Canonical := by
  obtain ⟨v, rfl⟩ := hashBuffer_writes ht
  cases b <;> exact { h with }

theorem countFrequencies_keeps_canonical (h : s.Canonical) (ht : countFrequencies s = .ok t) : t.Canonical := by
  unfold countFrequencies at ht
  split_ifs at ht
  cases ht
  exact { h with freq := ((FreqOk.empty _).countBytes _).1 }

/-- The merges write NODE inside its 511 entries, whatever the frequencies: `k` of them leave at most `256 - k` members
in the queue, so another one creates an entry `256 + k` of at most 510 (R104). -/
theorem wf_builtTree (s : State) : Sparse.wf TreeNode.cleared 511 (builtTree s).1 = true := by
  have hplanted : Sparse.wf TreeNode.cleared 511 (plantLeaves s.freq (presentSymbols s.freq)) = true :=
    List.foldlRecOn (motive := fun m => Sparse.wf TreeNode.cleared 511 m = true) _ _ (Sparse.wf_nil _ _)
      fun _ hm i hi => Sparse.wf_set _ hm ((List.mem_range.1 (List.mem_of_mem_filter hi)).trans (by omega))
  obtain ⟨k, ⟨hwf, -⟩, -⟩ := mergeAll_induction (fw := s.cfg.lenW + 8)
    (P := fun nodes q k => Sparse.wf TreeNode.cleared 511 nodes = true ∧ q.length + k ≤ 256)
    (fun nodes q k a b ha hb ⟨hwf, hsize⟩ => by
      have hlen := length_erase_erase ha hb
      refine ⟨Sparse.wf_set _ hwf (by omega), ?_⟩
      rw [List.length_append, List.length_singleton]
      omega)
    (k := 0) le_rfl ⟨hplanted, length_presentSymbols_le s.freq⟩
  exact hwf

theorem buildTree_keeps_canonical (h : s.Canonical) (ht : buildTree s = .ok t) : t.Canonical := by
  rw [buildTree_eq] at ht
  cases ht
  exact { h with node := wf_builtTree s }

/-- Wherever CGEN's walk leads, what it writes is in form. -/
theorem assignCodes_ok {ww : Nat} {nodes : Sparse TreeNode} {fuel n : Nat} {path : BitString} {g g' : CodeGen}
    (hg : g.Ok ww) (h : assignCodes ww nodes fuel n path g = some g') : g'.Ok ww := by
  induction fuel generalizing n path g g' with
  | zero => cases h
  | succ fuel ih =>
    unfold assignCodes at h
    dsimp only at h
    split_ifs at h
    · cases h
      exact hg.giveCode _ _
    · split at h
      · cases h
      · next g₁ h₁ => exact ih (ih hg h₁) h

theorem generateCodes_ok {g : CodeGen} (h : generateCodes s = some g) : g.Ok (s.cfg.lenW + 16) := by
  have hstart : CodeGen.Ok (s.cfg.lenW + 16) ⟨CodeTable.empty, 0⟩ :=
    ⟨⟨Sparse.wf_nil _ _, Sparse.wf_nil _ _⟩, Nat.two_pow_pos _⟩
  unfold generateCodes at h
  dsimp only at h
  split_ifs at h
  · cases h
    exact hstart
  · cases h
    exact hstart.giveCode _ _
  · exact assignCodes_ok hstart h

theorem execCgen_keeps_canonical (h : s.Canonical) (ht : execCgen s = .next t) : t.Canonical := by
  obtain ⟨-, rfl⟩ | ⟨-, g, hg, rfl⟩ := execCgen_cases ht
  · exact h
  · obtain ⟨htable, -⟩ := generateCodes_ok hg
    exact { h.withTable htable with }

/-- The pack phase is entered only if what it puts out fits OBUF (R110). -/
theorem packBuffer_keeps_canonical (h : s.Canonical) (ht : packBuffer s = .ok t) : t.Canonical := by
  unfold packBuffer at ht
  split_ifs at ht
  dsimp only at ht
  split at ht
  · cases ht
  · split_ifs at ht with hneed
    cases ht
    have hfit : (packBits (codeBits s.table (s.ibuf.bytes s.ilen)) 0#8 0).length ≤ s.cfg.bufBytes := by
      rw [length_packBits _ _ (by omega), length_codeBits, Nat.zero_add]
      omega
    exact { h with obuf := Memory.canonical_writeBytes h.obuf hfit }

theorem decodeWith_keeps_canonical {loop : State → BitString → Nat → Except Nat (List Symbol)}
    (hloop : ∀ u bits need out, loop u bits need = .ok out → out.length = need) (h : s.Canonical)
    (ht : decodeWith loop s = .ok t) : t.Canonical := by
  obtain ⟨-, rfl⟩ | ⟨-, -, -, hfit, out, hout, rfl⟩ := decodeWith_ok ht
  · exact { h with }
  · exact { h with obuf := Memory.canonical_writeBytes h.obuf ((hloop _ _ _ _ hout).trans_le hfit) }

/-- Every table's trie has at most 65281 entries, and TRIE has room for them (R10, R12). -/
theorem buildTrie_keeps_canonical (hc : s.cfg.wellFormed = true) (h : s.Canonical) (ht : buildTrie s = .ok t) :
    t.Canonical := by
  have hempty : TrieBuild.Ok s.cfg.trieNodes ⟨[], 1⟩ :=
    ⟨Sparse.wf_nil _ _, fun _ b => .inl (by cases b <;> rfl), fun _ _ => rfl⟩
  obtain ⟨hok, -⟩ := hempty.addSymbols s.table (List.range 256) Nat.one_pos (by simp) (Config.trieNodes_ge hc)
  cases ht
  exact { h with trie := hok.canonical }

theorem buildMap_keeps_canonical (h : s.Canonical) (ht : buildMap s = .ok t) : t.Canonical := by
  obtain ⟨hr, -⟩ := mapAddSymbols_ok s.table (List.range 256) (m := []) rfl
  cases ht
  exact h.withMap hr _

theorem exec_keeps_canonical {i : Instr} (hc : s.cfg.wellFormed = true) (h : s.Canonical) (ht : exec i s = .next t) :
    t.Canonical := by
  cases i with
  | nop => exact command_keeps_canonical (body := .ok) h ht fun _ hu => Except.ok.inj hu ▸ h
  | rst => exact Host.Outcome.next.inj ht ▸ h.clearAll
  | swap => exact command_keeps_canonical h ht fun _ => swapBuffers_keeps_canonical h
  | ciphf b => exact command_keeps_canonical h ht fun _ => cipherBuffer_keeps_canonical h
  | ciphi b => exact command_keeps_canonical h ht fun _ => cipherBuffer_keeps_canonical h
  | hash b => exact command_keeps_canonical h ht fun _ => hashBuffer_keeps_canonical h
  | fcnt => exact command_keeps_canonical h ht fun _ => countFrequencies_keeps_canonical h
  | tbld => exact command_keeps_canonical (body := buildTree) h ht fun _ => buildTree_keeps_canonical h
  | cgen => exact execCgen_keeps_canonical h ht
  | pack => exact outputCommand_keeps_canonical h ht fun _ => packBuffer_keeps_canonical h
  | trie => exact command_keeps_canonical (body := buildTrie) h ht fun _ => buildTrie_keeps_canonical hc h
  | mapb => exact command_keeps_canonical (body := buildMap) h ht fun _ => buildMap_keeps_canonical h
  | dect | decm =>
    exact outputCommand_keeps_canonical h ht fun _ =>
      decodeWith_keeps_canonical (fun _ _ _ _ => decodeStream_length) h

theorem hostCmd_keeps_canonical {w : CmdWord} (hc : s.cfg.wellFormed = true) (h : s.Canonical)
    (ht : hostCmd w s = .next t) : t.Canonical := by
  unfold hostCmd at ht
  split at ht
  · exact exec_keeps_canonical hc h ht
  · exact command_keeps_canonical h ht fun _ hu => nomatch hu

theorem setElement_keeps_canonical (h : s.Canonical) {i : Nat} (v : Nat) {sp : Space} (hi : i < s.size sp) :
    (s.setElement i v sp).Canonical := by
  cases sp with
  | reg =>
    obtain hset | ⟨r, -, hset⟩ := s.setElement_reg_cases i v
    · rwa [hset]
    · rw [hset]
      cases r <;> exact { h with }
  | ibuf => exact { h with ibuf := ⟨Memory.wf_write i _ h.ibuf.1, Memory.within_write _ h.ibuf.2 hi⟩ }
  | key => exact { h with key := ⟨Memory.wf_write i _ h.key.1, Memory.within_write _ h.key.2 hi⟩ }
  | freq => exact { h with freq := Sparse.wf_set _ h.freq hi }
  | clen => exact { h with clen := Sparse.wf_set _ h.clen hi }
  | cbits => exact { h with cbits := Sparse.wf_set _ h.cbits hi }
  | obuf | node | trie => exact h

theorem hostWrite_keeps_canonical (h : s.Canonical) (id i v : Nat) : (s.hostWrite id i v).Canonical := by
  obtain hw | ⟨sp, -, hi, hw⟩ := s.hostWrite_cases id i v
  · rwa [hw]
  · exact hw ▸ setElement_keeps_canonical h v hi

theorem runHostStep_keeps_canonical {x : HostStep} (hc : s.cfg.wellFormed = true) (h : s.Canonical)
    (ht : runHostStep x s = .next t) : t.Canonical := by
  cases x with
  | write id i v => exact Host.Outcome.next.inj ht ▸ hostWrite_keeps_canonical h id i v
  | read id i => exact Host.Outcome.next.inj ht ▸ { h with }
  | cmd w => exact hostCmd_keeps_canonical hc h ht
  | hardwareReset => exact Host.Outcome.next.inj ht ▸ s.canonical_hardwareReset

end Canonical

/-- Settles O58: the host step taken, be it a command, a write, a read or a reset, keeps the canonical form. -/
theorem stepKeepsMemoriesCanonical : Obligations.StepKeepsMemoriesCanonical := by
  unfold Obligations.StepKeepsMemoriesCanonical
  intro s t hc h ht
  obtain ⟨-, rfl⟩ | ⟨x, rest, -, hrun⟩ := step_cases ht
  · exact h
  · exact runHostStep_keeps_canonical (s := { s with pending := rest }) hc { h with } hrun

end Sys2Proof.Machine

/-! PROOFS. The encoding: a word is its three fields, the decoder and the encoder are inverse to each other, and the words
the decoder rejects (R80 to R85). -/

namespace Sys2Proof.Machine

open Sys2Proof.Claims

/-! ### The fields of a word -/

@[simp] theorem opcField_formatC (opc : BitVec 8) (b : BufSel) : opcField (formatC opc b) = opc :=
  BitVec.extractLsb'_append_eq_left

/-- Bit 0 of a word is its operand (R83). -/
theorem bit_operandB (w : CmdWord) : (operandB w).bit = BitVec.ofBool (w.getLsbD 0) := by
  unfold operandB
  cases w.getLsbD 0 <;> rfl

theorem operandB_eq_output {w : CmdWord} : operandB w = .output ↔ w.getLsbD 0 = true := by
  simp [operandB]

/-- A word whose bits 7:1 are zero is the word of its opc field and its operand (R80). -/
theorem formatC_fields {w : CmdWord} (h : zeroField w = 0#7) : formatC (opcField w) (operandB w) = w := by
  have hbit : w.extractLsb' 0 1 = (operandB w).bit := by
    rw [bit_operandB]
    ext k hk
    obtain rfl : k = 0 := by omega
    simp
  have hlow : w.extractLsb' 1 7 ++ w.extractLsb' 0 1 = w.extractLsb' 0 8 :=
    BitVec.extractLsb'_append_extractLsb'_eq_extractLsb' rfl
  have hword : w.extractLsb' 8 8 ++ w.extractLsb' 0 8 = w.extractLsb' 0 16 :=
    BitVec.extractLsb'_append_extractLsb'_eq_extractLsb' rfl
  rw [formatC, ← h, ← hbit, opcField, zeroField, hlow, hword, BitVec.extractLsb'_eq_self]

/-! ### Decoder and encoder -/

/-- The decoder finds the word of every command (R82). -/
theorem decode_encode (i : Instr) : decode (encode i) = .ok i := by
  cases i with
  | ciphf b | ciphi b | hash b => cases b <;> rfl
  | _ => rfl

/-- In every row of the opcode map the mask leaves out nothing or bit 0 alone, and that is where the command's word carries
the operand (R82, R83). -/
theorem encode_command (b : BufSel) : ∀ r ∈ opcodeMap,
    ~~~r.mask &&& 1#16 = ~~~r.mask ∧ encode (r.command b) = r.pattern ||| (~~~r.mask &&& b.bit.setWidth 16) := by
  cases b <;> decide

/-- A word that selects a row is the word of that row's command with the operand of the word. -/
theorem encode_of_selects {w : CmdWord} {r : OpcodeRow} (hr : r ∈ opcodeMap) (h : r.selects w = true) :
    encode (r.command (operandB w)) = w := by
  obtain ⟨hmask, henc⟩ := encode_command (operandB w) r hr
  calc encode (r.command (operandB w))
      = w &&& r.mask ||| (~~~r.mask &&& (w &&& 1#16)) := by
        rw [henc, ← beq_iff_eq.1 h, bit_operandB, BitVec.and_one_eq_setWidth_ofBool_getLsbD]
    _ = w &&& (r.mask ||| ~~~r.mask) := by
        rw [BitVec.and_comm w 1#16, ← BitVec.and_assoc, hmask, BitVec.and_comm _ w, BitVec.and_or_distrib_left]
    _ = w := by rw [BitVec.or_not_self, BitVec.and_allOnes]

/-- R82 to R84: every command has one word, and the decoder knows no other. -/
theorem decode_eq_ok_iff {w : CmdWord} {i : Instr} : decode w = .ok i ↔ w = encode i := by
  refine ⟨fun h => ?_, fun h => h ▸ decode_encode i⟩
  unfold decode at h
  split at h
  · next r hr =>
    have hsel : r.selects w = true := List.find?_some (p := fun r : OpcodeRow => r.selects w) hr
    rw [← Except.ok.inj h, encode_of_selects (List.mem_of_find?_eq_some hr) hsel]
  · cases h

/-- Settles O2: both directions are the two halves of `decode_eq_ok_iff`. -/
theorem decodeEncodeAgree : Obligations.DecodeEncodeAgree :=
  ⟨fun i _ => decode_encode i, fun _ _ => decode_eq_ok_iff.1⟩

/-- The seventeen pairs of R82 are the commands with their words. -/
theorem mem_commandWords {w : CmdWord} {i : Instr} : (w, i) ∈ commandWords ↔ w = encode i := by
  have hwords : ∀ e ∈ commandWords, e.1 = encode e.2 := by decide
  have hall : (encode i, i) ∈ commandWords := by
    cases i with
    | ciphf b | ciphi b | hash b => cases b <;> decide
    | _ => decide
  exact ⟨hwords (w, i), fun h => h ▸ hall⟩

/-- A word that selects a row has the row's opc field. -/
theorem opcField_of_selects {w : CmdWord} {r : OpcodeRow} (hr : r ∈ opcodeMap) (h : r.selects w = true) :
    opcField w = opcField r.pattern := by
  have hopc : ∀ b, ∀ r ∈ opcodeMap, opcField (encode (r.command b)) = opcField r.pattern := by
    intro b
    cases b <;> decide
  rw [← hopc (operandB w) r hr, encode_of_selects hr h]

/-- Different rows of the opcode map have different opc fields, so a word selects at most one (R82). -/
theorem length_selected_le (w : CmdWord) : (opcodeMap.filter fun r => r.selects w).length ≤ 1 := by
  have hnodup : (opcodeMap.map fun r => opcField r.pattern).Nodup := by decide
  have hsame : (opcodeMap.filter fun r => r.selects w).map (fun r => opcField r.pattern) =
      List.replicate (opcodeMap.filter fun r => r.selects w).length (opcField w) := by
    rw [List.map_eq_replicate_iff]
    intro r hr
    obtain ⟨hmem, hsel⟩ := List.mem_filter.1 hr
    exact (opcField_of_selects hmem hsel).symm
  have hsub : ((opcodeMap.filter fun r => r.selects w).map fun r => opcField r.pattern).Nodup :=
    hnodup.sublist (List.filter_sublist.map _)
  rwa [hsame, List.nodup_replicate] at hsub

/-- Settles O1: the seventeen pairs are the graph of the encoder, and opc fields tell the rows apart. -/
theorem decodeIsTheOpcodeMap : Obligations.DecodeIsTheOpcodeMap :=
  ⟨fun _ _ => decode_eq_ok_iff.trans mem_commandWords.symm, length_selected_le⟩

/-- Settles O4: the six words are the encoder's. -/
theorem sampleWordsDecode : Obligations.SampleWordsDecode :=
  ⟨decode_encode .nop, decode_encode .swap, decode_encode (.ciphf .output), decode_encode (.hash .input),
    decode_encode .tbld, decode_encode .decm⟩

/-! ### Illegal words -/

theorem opcField_encode_mem (i : Instr) : opcField (encode i) ∈ listedOpcodes := by
  cases i <;> rw [encode, opcField_formatC] <;> decide

/-- Format C holds of every command (R80). -/
theorem encode_formatC : ∀ i : Instr, Laws.FormatC.Statement i
  | .nop => Laws.FormatC.nop
  | .rst => Laws.FormatC.rst
  | .swap => Laws.FormatC.swap
  | .ciphf b => Laws.FormatC.ciphf b
  | .ciphi b => Laws.FormatC.ciphi b
  | .hash b => Laws.FormatC.hash b
  | .fcnt => Laws.FormatC.fcnt
  | .tbld => Laws.FormatC.tbld
  | .cgen => Laws.FormatC.cgen
  | .pack => Laws.FormatC.pack
  | .trie => Laws.FormatC.trie
  | .dect => Laws.FormatC.dect
  | .mapb => Laws.FormatC.mapb
  | .decm => Laws.FormatC.decm

/-- A listed opcode with a clear operand, or one that takes the operand with it set, is the word of a command (R82). -/
theorem exists_encode_eq_formatC {opc : BitVec 8} {b : BufSel} (h : opc ∈ listedOpcodes)
    (hb : b = .output → opc ∈ [0x10#8, 0x11#8, 0x18#8]) : ∃ i, formatC opc b = encode i := by
  have hinput : ∀ opc ∈ listedOpcodes, ∃ e ∈ commandWords, formatC opc .input = e.1 := by decide
  have houtput : ∀ opc ∈ [0x10#8, 0x11#8, 0x18#8], ∃ e ∈ commandWords, formatC opc .output = e.1 := by decide
  obtain ⟨⟨w, i⟩, hmem, hw⟩ : ∃ e ∈ commandWords, formatC opc b = e.1 := by
    cases b with
    | input => exact hinput opc h
    | output => exact houtput opc (hb rfl)
  exact ⟨i, hw.trans (mem_commandWords.1 hmem)⟩

/-- The legal words by their fields: a listed opcode, zeros in bits 7:1, and bit 0 clear unless the opcode takes the operand
(R84). -/
theorem exists_decode_ok_iff {w : CmdWord} : (∃ i, decode w = .ok i) ↔
    opcField w ∈ listedOpcodes ∧ zeroField w = 0#7 ∧
      (w.getLsbD 0 = true → opcField w ∈ [0x10#8, 0x11#8, 0x18#8]) := by
  constructor
  · rintro ⟨i, hi⟩
    obtain ⟨hzero, hoperand⟩ := encode_formatC i
    rw [decode_eq_ok_iff.1 hi]
    exact ⟨opcField_encode_mem i, hzero, by simpa using hoperand⟩
  · rintro ⟨hopc, hzero, hoperand⟩
    obtain ⟨i, hi⟩ := exists_encode_eq_formatC hopc fun hb => hoperand (operandB_eq_output.1 hb)
    exact ⟨i, decode_eq_ok_iff.2 ((formatC_fields hzero).symm.trans hi)⟩

/-- The decoder rejects a word exactly when it names no command (R81). -/
theorem exists_decode_error_iff {w : CmdWord} : (∃ r, decode w = .error r) ↔ ¬ ∃ i, decode w = .ok i := by
  cases decode w <;> simp

/-- Settles O3: the three kinds are the negation of what makes a word legal. -/
theorem illegalWordsAreTheThreeKinds : Obligations.IllegalWordsAreTheThreeKinds := by
  unfold Obligations.IllegalWordsAreTheThreeKinds
  intro w
  rw [exists_decode_error_iff, exists_decode_ok_iff]
  tauto

theorem illegalWord_running {w : CmdWord} {s : State} (he : s.err = 0#8) :
    illegalWord w s = .next (faulted s 1#8 w.toNat) :=
  command_error (body := fun _ => .error ⟨.illegal, w.toNat⟩) he rfl

theorem illegalWord_stopped {w : CmdWord} {s : State} (he : s.err ≠ 0#8) : illegalWord w s = .next s := by
  rw [illegalWord, command, unlessStopped_stopped he]

/-- Settles O6: an illegal word is a command whose only effect is its fault (R85). -/
theorem illegalWordRaises : Obligations.IllegalWordRaises := by
  unfold Obligations.IllegalWordRaises
  intro s w rest r hp hw
  have hstep : step s = illegalWord w { s with pending := rest } := by
    rw [step_host hp, runHostStep, hostCmd, hw]
  rw [hstep]
  exact ⟨fun he => illegalWord_running (s := { s with pending := rest }) he,
    fun he => illegalWord_stopped (s := { s with pending := rest }) he⟩

end Sys2Proof.Machine

/-! PROOFS. The run of a program of host writes, and what the steps of the directive `.ibuf` leave (R62, R87). -/

namespace Sys2Proof.Machine

/-! ### Running a program -/

/-- A run whose first step answers a next state goes on from it. -/
theorem run_succ_of_next {M : Host.Core} {k : Nat} {s t : M.State} (h : M.step s = .next t) :
    M.run (k + 1) s = M.run k t := by
  simp only [Host.Core.run, h]

theorem runProgram_nil (s : State) : runProgram [] s = .next (s.withProgram []) := rfl

/-- A host step that answers a next state leaves the rest of the program to run from that state (R19). -/
theorem runProgram_cons {x : HostStep} {p : List HostStep} {s t : State}
    (h : runHostStep x (s.withProgram p) = .next (t.withProgram p)) : runProgram (x :: p) s = runProgram p t :=
  run_succ_of_next (M := core) ((step_host (s.pending_withProgram (x :: p))).trans h)

/-- A host write does not look at the program. -/
theorem State.hostWrite_withProgram (s : State) (p : List HostStep) (id i v : Nat) :
    (s.withProgram p).hostWrite id i v = (s.hostWrite id i v).withProgram p := by
  have hsize : ∀ sp, (s.withProgram p).size sp = s.size sp := by
    intro sp
    cases sp <;> rfl
  have hset : ∀ sp, (s.withProgram p).setElement i v sp = (s.setElement i v sp).withProgram p := by
    intro sp
    cases sp with
    | reg =>
      unfold State.setElement
      cases Reg.ofIndex i with
      | none => rfl
      | some r => cases r <;> rfl
    | _ => rfl
  unfold State.hostWrite
  cases Space.ofId id with
  | none => rfl
  | some sp =>
    dsimp only
    rw [hsize, hset]
    split_ifs <;> rfl

theorem runProgram_write (id i v : Nat) (p : List HostStep) (s : State) :
    runProgram (.write id i v :: p) s = runProgram p (s.hostWrite id i v) :=
  runProgram_cons (congrArg _ (s.hostWrite_withProgram p id i v))

/-! ### The steps of `.ibuf` -/

theorem State.hostWrite_register (s : State) (r : Reg) (v : Nat) :
    s.hostWrite Space.reg.id r.index v = s.writeReg v r := by
  cases r <;> rfl

theorem State.hostWrite_ibuf {s : State} {i : Nat} (b : Byte) (hi : i < s.cfg.bufBytes) :
    s.hostWrite Space.ibuf.id i b.toNat = { s with ibuf := s.ibuf.write i b } := by
  rw [State.hostWrite_of_lt _ (Space.ofId_id .ibuf) hi, State.setElement, BitVec.ofNat_toNat, BitVec.setWidth_eq]

/-- Byte after byte into IBUF is one write of the sequence, where it fits (R61, R62). -/
theorem runProgram_writeEach_ibuf (bs : List Byte) (i : Nat) (p : List HostStep) (s : State)
    (hfit : i + bs.length ≤ s.cfg.bufBytes) :
    runProgram (writeEach .ibuf i bs ++ p) s = runProgram p { s with ibuf := s.ibuf.writeBytes i bs } := by
  induction bs generalizing i s with
  | nil => rfl
  | cons b bs ih =>
    rw [List.length_cons] at hfit
    rw [writeEach, List.cons_append, runProgram_write, State.hostWrite_ibuf b (by omega), ih _ _ (by dsimp; omega),
      Memory.writeBytes]

theorem runProgram_registerStep (r : Reg) (v : Nat) (p : List HostStep) (s : State) :
    runProgram (registerStep r v :: p) s = runProgram p (s.writeReg v r) := by
  rw [registerStep, runProgram_write, State.hostWrite_register]

/-- The whole effect of `.ibuf` (R87). -/
theorem runProgram_ibuf {s : State} {bs : List Byte} (hc : s.cfg.wellFormed = true)
    (hfit : bs.length ≤ s.cfg.bufBytes) : runProgram (Statement.ibuf bs).steps s =
      .next { s with ibuf := s.ibuf.writeBytes 0 bs, ilen := bs.length, pending := [] } := by
  rw [Statement.steps, runProgram_writeEach_ibuf _ _ _ _ (by omega), runProgram_registerStep, runProgram_nil,
    State.writeReg, trunc_of_lt (hfit.trans_lt (Config.bufBytes_lt hc)), State.withProgram]

/-- Settles O53: IBUF after the run is the sequence written from index 0. -/
theorem ibufDirectiveLoadsTheBuffer : Obligations.IbufDirectiveLoadsTheBuffer := by
  unfold Obligations.IbufDirectiveLoadsTheBuffer
  intro s bs hc hfit
  refine ⟨_, runProgram_ibuf hc hfit, rfl, fun i hi => ?_, fun i hi => ?_, rfl⟩
  · simp [Memory.read_writeBytes, List.getElem?_eq_getElem hi]
  · simp [Memory.read_writeBytes, List.getElem?_eq_none hi]

end Sys2Proof.Machine

/-! PROOFS. The packed stream: the bits of the bytes that the pack phase puts out, and PACK on an input whose bytes all have
a Code (R89, R110). -/

namespace Sys2Proof.Machine

/-! ### The bits of a sequence of bytes -/

/-- `StreamBit` of a sequence of bytes, 0 past its end (R15). -/
def byteBit (bs : List Byte) (p : Nat) : Bool := (bs.getD (p / 8) 0#8).getLsbD (7 - p % 8)

@[simp] theorem byteBit_nil (p : Nat) : byteBit [] p = false := by
  simp [byteBit]

theorem byteBit_cons_head {p : Nat} (hp : p < 8) (b : Byte) (bs : List Byte) :
    byteBit (b :: bs) p = b.getLsbD (7 - p) := by
  simp [byteBit, Nat.div_eq_of_lt hp, Nat.mod_eq_of_lt hp]

theorem byteBit_cons_tail {p : Nat} (hp : 8 ≤ p) (b : Byte) (bs : List Byte) :
    byteBit (b :: bs) p = byteBit bs (p - 8) := by
  rw [byteBit, show p / 8 = (p - 8) / 8 + 1 by omega, show p % 8 = (p - 8) % 8 by omega, List.getD_cons_succ, byteBit]

/-- The bits of a memory where a sequence of bytes was written from index 0 on. -/
theorem streamBit_writeBytes (m : Memory) {bs : List Byte} {p : Nat} (hp : p / 8 < bs.length) :
    streamBit (m.writeBytes 0 bs) p = byteBit bs p := by
  rw [streamBit, Memory.read_writeBytes, byteBit]
  simp [List.getElem?_eq_getElem hp]

/-! ### The pack phase -/

/-- The accumulator takes a bit at its low end (R110). -/
theorem getLsbD_pushBit (acc : BitVec 8) (b : Bool) {k : Nat} (hk : k < 8) :
    ((acc <<< 1) ||| (BitVec.ofBool b).setWidth 8).getLsbD k = if k = 0 then b else acc.getLsbD (k - 1) := by
  cases k with
  | zero => simp
  | succ k => simp [hk, BitVec.getLsbD_eq_getElem (show k < 8 by omega)]

/-- Bit `p` of the stream that the pack phase still has to put out: the `nb` bits held in the accumulator, the first one
highest, then the bits `c`, then zeros (R110). -/
def unpacked (c : BitString) (acc : BitVec 8) (nb p : Nat) : Bool :=
  if p < nb then acc.getLsbD (nb - 1 - p) else c.getD (p - nb) false

/-- Moving a bit into the accumulator leaves the stream as it is. -/
theorem unpacked_pushBit (b : Bool) (c : BitString) (acc : BitVec 8) {nb : Nat} (hnb : nb < 8) (p : Nat) :
    unpacked c ((acc <<< 1) ||| (BitVec.ofBool b).setWidth 8) (nb + 1) p = unpacked (b :: c) acc nb p := by
  unfold unpacked
  rcases Nat.lt_trichotomy p nb with hp | rfl | hp
  · rw [if_pos (by omega), if_pos hp, getLsbD_pushBit _ _ (by omega), if_neg (by omega)]
    congr 1
    omega
  · rw [if_pos (by omega), if_neg (by omega), getLsbD_pushBit _ _ (by omega), if_pos (by omega), Nat.sub_self,
      List.getD_cons_zero]
  · rw [if_neg (by omega), if_neg (by omega), show p - nb = p - (nb + 1) + 1 by omega, List.getD_cons_succ]

/-- The last partial group, shifted to the high-order bits (R110). -/
theorem byteBit_lastGroup (acc : BitVec 8) {nb : Nat} (hnb : nb < 8) (p : Nat) :
    byteBit [acc <<< (8 - nb)] p = unpacked [] acc nb p := by
  unfold unpacked
  rcases Nat.lt_or_ge p 8 with hp | hp
  · rw [byteBit_cons_head hp, BitVec.getLsbD_shiftLeft]
    by_cases hheld : p < nb
    · simp [hheld, show ¬ 7 - p < 8 - nb by omega, show 7 - p < 8 by omega,
        show 7 - p - (8 - nb) = nb - 1 - p by omega]
    · simp [hheld, show 7 - p < 8 - nb by omega]
  · simp [byteBit_cons_tail hp, show ¬ p < nb by omega]

/-- The pack phase puts out its stream bit by bit (R110). -/
theorem byteBit_packBits (c : BitString) (acc : BitVec 8) {nb : Nat} (hnb : nb < 8) (p : Nat) :
    byteBit (packBits c acc nb) p = unpacked c acc nb p := by
  induction c generalizing acc nb p with
  | nil =>
    unfold packBits
    split_ifs with hheld
    · exact byteBit_lastGroup acc hnb p
    · simp [unpacked, Nat.eq_zero_of_not_pos hheld]
  | cons b c ih =>
    rw [← unpacked_pushBit b c acc hnb p]
    unfold packBits
    dsimp only
    split_ifs with hfull
    · rcases Nat.lt_or_ge p 8 with hp | hp
      · rw [byteBit_cons_head hp, unpacked, hfull, if_pos hp]
      · rw [byteBit_cons_tail hp, ih _ (by omega), unpacked, unpacked, hfull, if_neg (by omega), if_neg (by omega),
          Nat.sub_zero]
    · exact ih _ (by omega) p

/-! ### PACK -/

theorem firstNoCode_eq_none {tab : CodeTable} {bs : List Byte} (h : ∀ b ∈ bs, 0 < tab.len b.toNat) (i : Nat) :
    firstNoCode tab bs i = none := by
  induction bs generalizing i with
  | nil => rfl
  | cons b bs ih =>
    obtain ⟨hb, hbs⟩ := List.forall_mem_cons.1 h
    rw [firstNoCode, if_neg hb.ne', ih hbs]

/-- PACK's effect where nothing is at fault (R110). -/
theorem packBuffer_ok {s : State} (hc : s.cfg.wellFormed = true) (hlen : s.ilen ≤ s.cfg.bufBytes)
    (hcode : ∀ b ∈ s.ibuf.bytes s.ilen, 0 < s.table.len b.toNat)
    (hfit : ceilDiv (codeBits s.table (s.ibuf.bytes s.ilen)).length 8 ≤ s.cfg.bufBytes) :
    packBuffer s = .ok { s with
      obuf := s.obuf.writeBytes 0 (packBits (codeBits s.table (s.ibuf.bytes s.ilen)) 0#8 0),
      olen := ceilDiv (codeBits s.table (s.ibuf.bytes s.ilen)).length 8 } := by
  have hout := length_packBits (codeBits s.table (s.ibuf.bytes s.ilen)) 0#8 (nb := 0) (by omega)
  rw [Nat.zero_add] at hout
  have htrunc := trunc_of_lt (hfit.trans_lt (Config.bufBytes_lt hc))
  simp only [packBuffer, if_neg hlen.not_gt, firstNoCode_eq_none hcode, ← length_codeBits, if_neg hfit.not_gt, hout,
    htrunc]

/-- Settles O39: the bits of OBUF are the bits of what the pack phase puts out. -/
theorem packWritesThePackedStream : Obligations.PackWritesThePackedStream := by
  unfold Obligations.PackWritesThePackedStream
  intro s he hc hlen hcode S hfit
  have hS : codeBits s.table (s.ibuf.bytes s.ilen) = S := by
    rw [codeBits, Memory.bytes, List.flatMap_map]
  have hlast : ∀ b ∈ s.ibuf.bytes s.ilen, 0 < s.table.len b.toNat := by
    intro b hb
    obtain ⟨i, hi, rfl⟩ := List.mem_map.1 hb
    exact hcode i (List.mem_range.1 hi)
  have hpack := packBuffer_ok hc hlen hlast (by rwa [hS])
  rw [hS] at hpack
  have hout : (packBits S 0#8 0).length = (S.length + 7) / 8 := by
    rw [length_packBits S 0#8 (by omega), Nat.zero_add]
    rfl
  have hbit : ∀ p, p / 8 < (S.length + 7) / 8 →
      streamBit (s.obuf.writeBytes 0 (packBits S 0#8 0)) p = S.getD p false := by
    intro p hp
    rw [streamBit_writeBytes _ (hout ▸ hp), byteBit_packBits S 0#8 (by omega) p, unpacked, if_neg (by omega),
      Nat.sub_zero]
  refine ⟨_, outputCommand_ok he hpack, rfl, fun p hp => ?_, fun p hp hp' => ?_, fun i hi => ?_, rfl⟩
  · rw [State.obuf_retire, hbit p (by omega), List.getD_eq_getElem _ _ hp, List.getElem?_eq_getElem hp]
  · have hp₈ : p < 8 * ((S.length + 7) / 8) := hp'
    rw [State.obuf_retire, hbit p (by omega), List.getD_eq_default _ _ hp]
  · have hi' : (S.length + 7) / 8 ≤ i := hi
    rw [State.obuf_retire, Memory.read_writeBytes]
    simp [List.getElem?_eq_none (hout.trans_le hi')]

end Sys2Proof.Machine

/-! PROOFS. FCNT's counters, with sums over the Symbols against sums over the input (R100, R101); the faults of PACK in
their order (R201); what TBLD depends on (R105), and where a command can stop. -/

namespace Sys2Proof.Machine

open Sys2Proof.Claims

/-! ### FCNT -/

/-- Counting a sequence of bytes adds to each counter its byte's occurrences, where no counter can overflow (R100). -/
theorem get_countBytes {w : Nat} (bs : List Byte) {f : Sparse Nat} (b : Byte)
    (hfit : Sparse.get 0 f b.toNat + bs.length < 2 ^ w) :
    Sparse.get 0 (bs.foldl (countByte w) f) b.toNat = Sparse.get 0 f b.toNat + bs.count b := by
  induction bs generalizing f with
  | nil => rfl
  | cons a bs ih =>
    rw [List.length_cons] at hfit
    have hstep : Sparse.get 0 (countByte w f a) b.toNat = Sparse.get 0 f b.toNat + if a = b then 1 else 0 := by
      rw [countByte, Sparse.get_set]
      by_cases hab : a = b
      · subst hab
        rw [if_pos rfl, if_pos rfl, trunc_of_lt (by omega)]
      · rw [if_neg (fun h => hab (BitVec.eq_of_toNat_eq h).symm), if_neg hab, Nat.add_zero]
    rw [List.foldl_cons, ih (by rw [hstep]; split_ifs <;> omega), hstep, List.count_cons]
    simp only [beq_iff_eq]
    omega

/-- The state FCNT leaves, where ILEN is in range (R100). -/
def State.counted (s : State) : State :=
  { s with freq := (s.ibuf.bytes s.ilen).foldl (countByte s.cfg.lenW) [], nsym := s.ilen }.retire

theorem exec_fcnt {s : State} (he : s.err = 0#8) (hc : s.cfg.wellFormed = true) (hlen : s.ilen ≤ s.cfg.bufBytes) :
    exec .fcnt s = .next s.counted := by
  have htrunc := trunc_of_lt (hlen.trans_lt (Config.bufBytes_lt hc))
  exact command_ok he (by rw [countFrequencies, if_neg hlen.not_gt, htrunc])

theorem get_counted {s : State} (hc : s.cfg.wellFormed = true) (hlen : s.ilen ≤ s.cfg.bufBytes) (b : Symbol) :
    Sparse.get 0 s.counted.freq b.toNat = (s.ibuf.bytes s.ilen).count b := by
  have hfit : Sparse.get 0 ([] : Sparse Nat) b.toNat + (s.ibuf.bytes s.ilen).length < 2 ^ s.cfg.lenW := by
    rw [Sparse.get_nil, Nat.zero_add, Memory.length_bytes]
    exact hlen.trans_lt (Config.bufBytes_lt hc)
  exact (get_countBytes _ b hfit).trans (Nat.zero_add _)

theorem get_counted_lt (s : State) (i : Nat) : Sparse.get 0 s.counted.freq i < 2 ^ s.cfg.lenW :=
  ((FreqOk.empty s.cfg.lenW).countBytes (s.ibuf.bytes s.ilen)).2 i

/-- Settles O29: the counters start at 0, and none overflows, since ILEN is below 2^LEN_W. -/
theorem fcntCountsTheInput : Obligations.FcntCountsTheInput := by
  unfold Obligations.FcntCountsTheInput
  intro s he hc
  refine ⟨fun hlen => ?_, fun hlen => ⟨s.counted, exec_fcnt he hc hlen, get_counted hc hlen, rfl⟩⟩
  exact command_error he (r := ⟨.len, s.ilen⟩) (by simp only [countFrequencies, if_pos hlen])

/-! ### Sums over the Symbols -/

/-- A sum over a range of numbers, as `Finset` has it. -/
theorem sum_map_range (n : Nat) (f : Nat → Nat) : ((List.range n).map f).sum = ∑ i ∈ Finset.range n, f i := rfl

/-- Adding up a weight of the Symbols, each as often as it occurs, is adding it up over the sequence (R101, R108). -/
theorem sum_count_mul (bs : List Byte) {g : Nat → Nat} (hg : ∀ b : Byte, g b.toNat = bs.count b) (f : Nat → Nat) :
    ((List.range 256).map fun i => g i * f i).sum = (bs.map fun b => f b.toNat).sum := by
  have hcount : ∀ i, i < 256 → g i = (bs.map BitVec.toNat).count i := fun i hi => by
    have hb : (BitVec.ofNat 8 i).toNat = i := Nat.mod_eq_of_lt hi
    rw [← hb, hg, List.count_map_of_injective _ _ fun _ _ => BitVec.eq_of_toNat_eq]
  have hsub : (bs.map BitVec.toNat).toFinset ⊆ Finset.range 256 := fun i hi => by
    obtain ⟨b, -, rfl⟩ := List.mem_map.1 (List.mem_toFinset.1 hi)
    exact Finset.mem_range.2 b.isLt
  rw [sum_map_range]
  calc ∑ i ∈ Finset.range 256, g i * f i
      = ∑ i ∈ Finset.range 256, (bs.map BitVec.toNat).count i * f i :=
        Finset.sum_congr rfl fun i hi => by rw [hcount i (Finset.mem_range.1 hi)]
    _ = ∑ i ∈ (bs.map BitVec.toNat).toFinset, (bs.map BitVec.toNat).count i * f i :=
        (Finset.sum_subset hsub fun i _ hi => by
          rw [List.count_eq_zero.2 fun h => hi (List.mem_toFinset.2 h), Nat.zero_mul]).symm
    _ = ((bs.map BitVec.toNat).map f).sum := by simp only [Finset.sum_list_map_count, smul_eq_mul]
    _ = (bs.map fun b => f b.toNat).sum := by rw [List.map_map]; rfl

theorem sum_counted {s : State} (hc : s.cfg.wellFormed = true) (hlen : s.ilen ≤ s.cfg.bufBytes) :
    ((List.range 256).map fun i => Sparse.get 0 s.counted.freq i).sum = s.ilen := by
  have h := sum_count_mul (s.ibuf.bytes s.ilen) (get_counted hc hlen) fun _ => 1
  simpa using h

/-- Settles O30: the counters are the occurrences, so they add up to the number of bytes. -/
theorem frequenciesSumToLength : Obligations.FrequenciesSumToLength := by
  unfold Obligations.FrequenciesSumToLength
  intro s t he hc hlen ht
  cases (exec_fcnt he hc hlen).symm.trans ht
  refine ⟨sum_counted hc hlen, rfl, fun b => ?_⟩
  rw [get_counted hc hlen, List.count_pos_iff, Memory.bytes]
  simp only [List.mem_map, List.mem_range]
  rfl

/-! ### PACK's faults -/

/-- The first byte without a Code (R194). -/
theorem firstNoCode_eq_some {tab : CodeTable} {bs : List Byte} {b : Byte} {rest : List Byte}
    (h : ∀ a ∈ bs, 0 < tab.len a.toNat) (hb : tab.len b.toNat = 0) (i : Nat) :
    firstNoCode tab (bs ++ b :: rest) i = some (i + bs.length) := by
  induction bs generalizing i with
  | nil => rw [List.nil_append, firstNoCode, if_pos hb]; rfl
  | cons a bs ih =>
    obtain ⟨ha, hbs⟩ := List.forall_mem_cons.1 h
    rw [List.cons_append, firstNoCode, if_neg ha.ne', ih hbs, List.length_cons]
    congr 1
    omega

/-- The first `n` bytes of a memory, parted at index `k`. -/
theorem Memory.bytes_eq_append (m : Memory) {n k : Nat} (hk : k < n) :
    ∃ rest, m.bytes n = m.bytes k ++ m.read k :: rest := by
  refine ⟨((List.range (n - (k + 1))).map (k + 1 + ·)).map m.read, ?_⟩
  rw [Memory.bytes, show n = k + 1 + (n - (k + 1)) by omega, List.range_add, List.range_succ]
  simp [Memory.bytes]

theorem Memory.forall_mem_bytes {m : Memory} {n : Nat} {P : Byte → Prop} (h : ∀ i, i < n → P (m.read i)) :
    ∀ b ∈ m.bytes n, P b := fun b hb => by
  obtain ⟨i, hi, rfl⟩ := List.mem_map.1 hb
  exact h i (List.mem_range.1 hi)

/-- Settles O40: PACK's body checks ILEN, then each byte's Code, then the length of the output (R201). -/
theorem packFaultsInOrder : Obligations.PackFaultsInOrder := by
  unfold Obligations.PackFaultsInOrder
  intro s he
  refine ⟨fun hlen => ?_, fun hlen k hk hnone hcodes => ?_, fun hlen hcodes => ?_⟩
  · exact outputCommand_error he (r := ⟨.len, s.ilen⟩) (by simp only [packBuffer, if_pos hlen])
  · obtain ⟨rest, hbytes⟩ := s.ibuf.bytes_eq_append hk
    have hfirst := firstNoCode_eq_some (rest := rest) (Memory.forall_mem_bytes hcodes) hnone 0
    rw [← hbytes, Memory.length_bytes, Nat.zero_add] at hfirst
    exact outputCommand_error he (r := ⟨.noCode, k⟩) (by simp only [packBuffer, if_neg hlen.not_gt, hfirst])
  · intro need hneed
    have hfirst := firstNoCode_eq_none (Memory.forall_mem_bytes hcodes) 0
    have hbits : ceilDiv (totalBits s.table (s.ibuf.bytes s.ilen)) 8 = need := by
      rw [totalBits, Memory.bytes, List.map_map, ceilDiv]
      rfl
    exact outputCommand_error he (r := ⟨.ovf, need⟩) (by
      simp only [packBuffer, if_neg hlen.not_gt, hfirst, hbits, if_pos hneed])

/-! ### TBLD and the stops -/

/-- The state TBLD leaves (R104). -/
def State.built (s : State) : State :=
  { s with
    node := (builtTree s).1, root := rootOf (builtTree s).2,
    nleaf := BitVec.ofNat 9 (presentSymbols s.freq).length }.retire

@[simp] theorem State.node_built (s : State) : s.built.node = (builtTree s).1 := rfl
@[simp] theorem State.root_built (s : State) : s.built.root = rootOf (builtTree s).2 := rfl
@[simp] theorem State.nleaf_built (s : State) : s.built.nleaf = BitVec.ofNat 9 (presentSymbols s.freq).length := rfl

theorem exec_tbld {s : State} (he : s.err = 0#8) : exec .tbld s = .next s.built := command_ok he (buildTree_eq s)

/-- Settles O33: what TBLD writes is a function of LEN_W and FREQ (R105). -/
theorem tbldDependsOnFreqAlone : Obligations.TbldDependsOnFreqAlone := by
  unfold Obligations.TbldDependsOnFreqAlone
  intro s u s' u' hs hu hcfg hfreq hs' hu'
  have hbuilt : builtTree s = builtTree u := by rw [builtTree, builtTree, hcfg, hfreq]
  cases (exec_tbld hs).symm.trans hs'
  cases (exec_tbld hu).symm.trans hu'
  simp [hbuilt, hfreq]

/-- Every command but CGEN answers a next state. -/
theorem exec_total {i : Instr} (hi : i ≠ .cgen) (s : State) : ∃ t, exec i s = .next t := by
  cases i with
  | cgen => exact absurd rfl hi
  | rst => exact ⟨_, rfl⟩
  | pack | dect | decm => exact outputCommand_total _ s
  | nop => exact command_total .ok s
  | tbld => exact command_total buildTree s
  | trie => exact command_total buildTrie s
  | mapb => exact command_total buildMap s
  | swap | ciphf | ciphi | hash | fcnt => exact command_total _ s

/-- CGEN answers a next state where its walk ends, and in error-stop; else it ends in the fault (log entry 6). -/
theorem execCgen_total (s : State) :
    (∃ t, execCgen s = .next t) ∨ (execCgen s = .fault .notATree ∧ generateCodes s = none) := by
  by_cases he : s.err = 0#8
  · rw [execCgen, unlessStopped_running he]
    cases hg : generateCodes s with
    | none => exact .inr ⟨rfl, rfl⟩
    | some g => exact .inl ⟨_, rfl⟩
  · exact .inl ⟨s, unlessStopped_stopped he⟩

/-- Settles O35: the walk of CGEN ends on every arena that holds trees. -/
theorem onlyCgenCanStop : Obligations.OnlyCgenCanStop := by
  unfold Obligations.OnlyCgenCanStop
  intro i s
  by_cases hi : i = .cgen
  · subst hi
    refine (execCgen_total s).imp_right fun ⟨hfault, hnone⟩ => ⟨rfl, hfault, fun htree => ?_⟩
    obtain ⟨g, hg, -⟩ := generateCodes_total htree
    exact absurd (hnone.symm.trans hg) (Option.some_ne_none g).symm
  · exact .inl (exec_total hi s)

end Sys2Proof.Machine

/-! PROOFS. The merges of TBLD take the lowest two: what `lowest` answers, and what the merges made so far say of the
arena (R102 to R104). -/

namespace Sys2Proof.Machine

open Sys2Proof.Claims

/-! ### The lowest member -/

/-- `a` is a member of the queue, and no member is lower (R102). -/
def Lowest (nodes : Sparse TreeNode) (q : List Nat) (a : Nat) : Prop :=
  a ∈ q ∧ ∀ j ∈ q, ¬ lowerThan nodes j a

theorem lower_iff (nodes : Sparse TreeNode) (a b : Nat) :
    lower (nodeAt nodes a) (nodeAt nodes b) = true ↔ lowerThan nodes a b := by
  simp [lower, lowerThan, BitVec.lt_def]

theorem lowest_spec {nodes : Sparse TreeNode} {q : List Nat} {a : Nat} (h : lowest nodes q = some a) :
    Lowest nodes q a := by
  refine ⟨lowest_mem h, ?_⟩
  induction q generalizing a with
  | nil => simp
  | cons i q ih =>
    have hirrefl : ¬ lowerThan nodes i i := by simp [lowerThan]
    unfold lowest at h
    split at h
    · next hnone =>
      cases h
      have hq : q = [] := by
        by_contra hne
        obtain ⟨j, hj⟩ := lowest_isSome (nodes := nodes) hne
        exact Option.some_ne_none j (hj.symm.trans hnone)
      simpa [hq] using hirrefl
    · next j hj =>
      split_ifs at h with hlt <;> cases h <;> rw [lower_iff] at hlt
      · refine List.forall_mem_cons.2 ⟨fun hij => ?_, ih hj⟩
        unfold lowerThan at hlt hij
        omega
      · refine List.forall_mem_cons.2 ⟨hirrefl, fun k hk hki => ?_⟩
        have hkj := ih hj k hk
        unfold lowerThan at hlt hkj hki
        omega

theorem lowest_of_extract {nodes : Sparse TreeNode} {q q' : List Nat} {a : Nat}
    (h : extract nodes q = some (a, q')) : Lowest nodes q a := by
  obtain ⟨b, hb, heq⟩ := Option.map_eq_some_iff.1 h
  cases heq
  exact lowest_spec hb

theorem Lowest.freq_le {nodes : Sparse TreeNode} {q : List Nat} {a j : Nat} (h : Lowest nodes q a) (hj : j ∈ q) :
    (nodeAt nodes a).freq ≤ (nodeAt nodes j).freq :=
  Nat.le_of_not_lt fun hlt => h.2 j hj (.inl hlt)

/-- What holds of the arena and the queue before the first merge, and is kept by every merge of the lowest member with
the lowest of the rest, holds after the last one (R104). -/
theorem mergeAll_lowest_induction {fw : Nat} {P : Sparse TreeNode → List Nat → Nat → Prop}
    (hstep : ∀ nodes q k a b, Lowest nodes q a → Lowest nodes (q.erase a) b → P nodes q k →
      P (joined fw nodes (256 + k) a b) ((q.erase a).erase b ++ [256 + k]) (k + 1))
    (fuel : Nat) {nodes : Sparse TreeNode} {q : List Nat} {k : Nat} (h : P nodes q k) :
    ∃ k', P (mergeAll fw fuel nodes q k).1 (mergeAll fw fuel nodes q k).2 k' := by
  induction fuel generalizing nodes q k with
  | zero => exact ⟨k, h⟩
  | succ fuel ih =>
    unfold mergeAll
    split
    · exact ⟨k, h⟩
    · next a q₁ ha =>
      obtain ⟨-, rfl⟩ := extract_eq_some ha
      split
      · exact ⟨k, h⟩
      · next b q₂ hb =>
        obtain ⟨-, rfl⟩ := extract_eq_some hb
        exact ih (hstep _ _ _ _ _ (lowest_of_extract ha) (lowest_of_extract hb) h)

/-! ### The merges made so far -/

/-- The Internal node `n` joins the lowest of the nodes queued when it is made with the lowest of the others, and its
key is the smaller of theirs (R103, R104). -/
def JoinsLowest (t : Sparse TreeNode) (n : Nat) : Prop :=
  lowestOf t (queued t n) (treeChild t n false) ∧
    lowestOf t (fun i => queued t n i ∧ i ≠ treeChild t n false) (treeChild t n true) ∧
    (nodeAt t n).key.toNat = min (nodeAt t (treeChild t n false)).key.toNat (nodeAt t (treeChild t n true)).key.toNat

/-- The nodes up to `n` decide what is queued when `n` is made. -/
theorem queued_of_agree {t t' : Sparse TreeNode} {n i : Nat} (heq : ∀ j, j ≤ n → nodeAt t' j = nodeAt t j)
    (h : queued t n i) : queued t' n i := by
  obtain ⟨hv, hlt, hfree⟩ := h
  refine ⟨by rwa [treeValid, heq i hlt.le], hlt, fun m b hm hmn => ?_⟩
  rw [treeChild, heq m hmn.le]
  exact hfree m b hm hmn

/-- The nodes up to `n` decide what node `n` joins. -/
theorem JoinsLowest.congr {t t' : Sparse TreeNode} {n : Nat} (h : JoinsLowest t n)
    (heq : ∀ i, i ≤ n → nodeAt t' i = nodeAt t i) : JoinsLowest t' n := by
  have hchild : ∀ d, treeChild t' n d = treeChild t n d := fun d => by rw [treeChild, treeChild, heq n le_rfl]
  have hqueued : ∀ i, queued t' n i ↔ queued t n i := fun i =>
    ⟨queued_of_agree fun j hj => (heq j hj).symm, queued_of_agree heq⟩
  have hlower : ∀ i j, i < n → j < n → (lowerThan t' i j ↔ lowerThan t i j) := fun i j hi hj => by
    rw [lowerThan, lowerThan, heq i hi.le, heq j hj.le]
  have hlt : ∀ {i}, queued t n i → i < n := fun ⟨_, hlt, _⟩ => hlt
  obtain ⟨⟨hq₁, hmin₁⟩, ⟨⟨hq₂, hne⟩, hmin₂⟩, hkey⟩ := h
  refine ⟨⟨?_, ?_⟩, ⟨⟨?_, ?_⟩, ?_⟩, ?_⟩ <;> simp only [hqueued, hchild]
  · exact hq₁
  · exact fun j hj hja => (hlower _ _ (hlt hq₁) (hlt hj)).2 (hmin₁ j hj hja)
  · exact hq₂
  · exact hne
  · exact fun j hj hjb => (hlower _ _ (hlt hq₂) (hlt hj.1)).2 (hmin₂ j hj hjb)
  · rw [heq n le_rfl, heq _ (hlt hq₁).le, heq _ (hlt hq₂).le, hkey]

/-- The keys of the queue's members. -/
def queueKeys (nodes : Sparse TreeNode) (q : List Nat) : List Byte := q.map fun i => (nodeAt nodes i).key

/-- Where keys differ, no member lower than `a` means `a` is lower than every other member (R102). -/
theorem Lowest.lowerThan_of_ne {nodes : Sparse TreeNode} {q : List Nat} {a j : Nat} (h : Lowest nodes q a)
    (hkeys : (queueKeys nodes q).Nodup) (hj : j ∈ q) (hne : j ≠ a) : lowerThan nodes a j := by
  have hkey : (nodeAt nodes j).key ≠ (nodeAt nodes a).key := fun heq =>
    hne (List.inj_on_of_nodup_map hkeys hj h.1 heq)
  have hkey' : (nodeAt nodes j).key.toNat ≠ (nodeAt nodes a).key.toNat := fun heq =>
    hkey (BitVec.eq_of_toNat_eq heq)
  have hnot := h.2 j hj
  unfold lowerThan at hnot ⊢
  omega

/-- What the merges keep besides `ArenaOk`: the members of the queue have different keys, and every Internal node made
so far joins the lowest two of its queue (R103, R104). -/
structure MergesOk (fw : Nat) (freq : Sparse Nat) (nodes : Sparse TreeNode) (q : List Nat) (k : Nat) : Prop where
  arena : ArenaOk fw freq nodes q k
  keys : (queueKeys nodes q).Nodup
  joins : ∀ n, 256 ≤ n → n < 256 + k → JoinsLowest nodes n

/-- The two members extracted, and the rest of the queue. -/
theorem perm_erase_erase {q : List Nat} {a b : Nat} (ha : a ∈ q) (hb : b ∈ q.erase a) :
    q.Perm (a :: b :: (q.erase a).erase b) :=
  (List.perm_cons_erase ha).trans ((List.perm_cons_erase hb).cons a)

section Merge

variable {fw : Nat} {freq : Sparse Nat} {nodes : Sparse TreeNode} {q : List Nat} {k a b : Nat}

theorem toNat_minKey (x y : Byte) : (minKey x y).toNat = min x.toNat y.toNat := by
  unfold minKey
  split_ifs with h <;> rw [BitVec.lt_def] at h <;> omega

/-- While two members are left the next Internal node has its place in NODE (R41). -/
theorem QueueOk.new_index (h : QueueOk fw nodes q k) (ha : a ∈ q) (hb : b ∈ q.erase a) :
    256 ≤ 256 + k ∧ 256 + k ≤ 510 := by
  have hlen := length_erase_erase ha hb
  have hsize := h.size
  omega

/-- The nodes queued when the next Internal node is made are the members of the queue (R104). -/
theorem ArenaOk.queued_joined (h : ArenaOk fw freq nodes q k) (i : Nat) :
    queued (joined fw nodes (256 + k) a b) (256 + k) i ↔ i ∈ q := by
  constructor
  · rintro ⟨hv, hlt, hfree⟩
    rw [treeValid_joined_other hlt.ne] at hv
    refine h.complete i ⟨hv, fun j d hj hvj => ?_⟩
    have hjlt := (h.inner j hj).1 hvj
    rw [← treeChild_joined_other (fw := fw) (a := a) (b := b) hjlt.ne]
    exact hfree j d hj hjlt
  · intro hi
    obtain ⟨hv, hfree⟩ := h.queue.roots i hi
    have hlt := h.queue.forest.valid_lt (by omega) hv
    refine ⟨by rwa [treeValid_joined_other hlt.ne], hlt, fun m d hm hmlt => ?_⟩
    rw [treeChild_joined_other hmlt.ne]
    exact hfree m d hm ((h.inner m hm).2 hmlt)

theorem MergesOk.joins_new (h : MergesOk fw freq nodes q k) (ha : Lowest nodes q a)
    (hb : Lowest nodes (q.erase a) b) : JoinsLowest (joined fw nodes (256 + k) a b) (256 + k) := by
  have hforest := h.arena.queue.forest
  have hn := h.arena.queue.new_index ha.1 hb.1
  have hbq : b ∈ q := List.mem_of_mem_erase hb.1
  have hchild := treeChild_joined_new hforest hn (h.arena.queue.roots a ha.1) (h.arena.queue.roots b hbq)
  have hold : ∀ i ∈ q, nodeAt (joined fw nodes (256 + k) a b) i = nodeAt nodes i := fun i hi =>
    hforest.nodeAt_joined hn (h.arena.queue.roots i hi).1
  have hlower : ∀ i ∈ q, ∀ j ∈ q, lowerThan nodes i j → lowerThan (joined fw nodes (256 + k) a b) i j :=
    fun i hi j hj hij => by rwa [lowerThan, hold i hi, hold j hj]
  have hrest : ∀ {i}, i ∈ q.erase a ↔ i ≠ a ∧ i ∈ q := h.arena.queue.nodup.mem_erase_iff
  have hkeys : (queueKeys nodes (q.erase a)).Nodup := h.keys.sublist (List.erase_sublist.map _)
  simp only [JoinsLowest, lowestOf, hchild, h.arena.queued_joined, Bool.false_eq_true, if_false, if_true]
  refine ⟨⟨ha.1, fun j hj hne => ?_⟩, ⟨⟨hbq, (hrest.1 hb.1).1⟩, fun j hj hne => ?_⟩, ?_⟩
  · exact hlower a ha.1 j hj (ha.lowerThan_of_ne h.keys hj hne)
  · exact hlower b hbq j hj.1 (hb.lowerThan_of_ne hkeys (hrest.2 hj.symm) hne)
  · rw [hold a ha.1, hold b hbq, nodeAt_joined_new]
    exact toNat_minKey _ _

/-- The new node has the key of one of the two nodes merged, which leave the queue (R103). -/
theorem MergesOk.keys_joined (h : MergesOk fw freq nodes q k) (ha : a ∈ q) (hb : b ∈ q.erase a) :
    (queueKeys (joined fw nodes (256 + k) a b) ((q.erase a).erase b ++ [256 + k])).Nodup := by
  have hkeys : (queueKeys nodes (a :: b :: (q.erase a).erase b)).Nodup :=
    ((perm_erase_erase ha hb).map _).nodup h.keys
  have hold : queueKeys (joined fw nodes (256 + k) a b) ((q.erase a).erase b) =
      queueKeys nodes ((q.erase a).erase b) :=
    List.map_congr_left fun i hi => by
      have hv := (h.arena.queue.roots i (List.mem_of_mem_erase (List.mem_of_mem_erase hi))).1
      rw [nodeAt_joined_other (h.arena.queue.forest.valid_lt (by omega) hv).ne]
  have hnew : (nodeAt (joined fw nodes (256 + k) a b) (256 + k)).key = (nodeAt nodes a).key ∨
      (nodeAt (joined fw nodes (256 + k) a b) (256 + k)).key = (nodeAt nodes b).key := by
    rw [nodeAt_joined_new]
    exact ite_eq_or_eq _ _ _
  simp only [queueKeys, List.map_cons, List.nodup_cons, List.mem_cons, not_or] at hkeys hold
  obtain ⟨⟨-, hka⟩, hkb, hrest⟩ := hkeys
  rw [queueKeys, List.map_append, hold, List.map_singleton]
  refine List.nodup_append.2 ⟨hrest, List.nodup_singleton _, fun x hx y hy hxy => ?_⟩
  rw [hxy, List.mem_singleton.1 hy] at hx
  rcases hnew with hnew | hnew <;> rw [hnew] at hx
  · exact hka hx
  · exact hkb hx

theorem MergesOk.merge (h : MergesOk fw freq nodes q k) (ha : Lowest nodes q a) (hb : Lowest nodes (q.erase a) b) :
    MergesOk fw freq (joined fw nodes (256 + k) a b) ((q.erase a).erase b ++ [256 + k]) (k + 1) where
  arena := h.arena.merge ha.1 hb.1
  keys := h.keys_joined ha.1 hb.1
  joins n hn hlt := by
    rcases eq_or_ne n (256 + k) with rfl | hne
    · exact h.joins_new ha hb
    · exact (h.joins n hn (by omega)).congr fun i hi => nodeAt_joined_other (by omega)

end Merge

/-- The leaves' keys are their Symbols (R104). -/
theorem mergesOk_leaves {freq : Sparse Nat} {w : Nat} (hf : ∀ i, i < 256 → Sparse.get 0 freq i < 2 ^ w) :
    MergesOk (w + 8) freq (plantLeaves freq (presentSymbols freq)) (presentSymbols freq) 0 where
  arena := arenaOk_leaves hf
  keys := by
    refine List.Nodup.map_on (fun i hi j hj heq => ?_) (List.nodup_range.filter _)
    have hi' := mem_presentSymbols.1 hi
    have hj' := mem_presentSymbols.1 hj
    rw [nodeAt_leaves, nodeAt_leaves, if_pos hi', if_pos hj'] at heq
    have hmod : i % 256 = j % 256 := by simpa [leafNode] using congrArg BitVec.toNat heq
    omega
  joins _ hn hlt := absurd hlt (Nat.not_lt.2 hn)

/-- Settles O32: every merge joins the lowest two members, and no later merge changes what an Internal node joins. -/
theorem tbldMergesTheLowestTwo : Obligations.TbldMergesTheLowestTwo := by
  unfold Obligations.TbldMergesTheLowestTwo
  intro s t he _ hf ht n hn hv
  obtain ⟨k, h⟩ := mergeAll_lowest_induction (P := MergesOk (s.cfg.lenW + 8) s.freq)
    (fun _ _ _ _ _ ha hb h => h.merge ha hb) (presentSymbols s.freq).length (mergesOk_leaves hf)
  cases (exec_tbld he).symm.trans ht
  exact h.joins n hn ((h.arena.inner n hn).1 hv)

end Sys2Proof.Machine

/-! PROOFS. CGEN: the tree below ROOT as a term, the Codes its walk hands out, and the table and the path length that
these leave (R106, R107). -/

namespace Sys2Proof.Machine

open Sys2Proof.Claims

/-! ### The tree below a node -/

/-- A tree of the arena, each node by its index (R92). -/
inductive CodeTree where
  | leaf (i : Nat)
  | inner (n : Nat) (l r : CodeTree)

namespace CodeTree

/-- The index of the topmost node. -/
def top : CodeTree → Nat
  | leaf i => i
  | inner n _ _ => n

/-- The tree stands in the arena. -/
def StandsIn (t : Sparse TreeNode) : CodeTree → Prop
  | leaf i => i < 256 ∧ treeValid t i = true
  | inner n l r => 256 ≤ n ∧ treeValid t n = true ∧ treeChild t n false = l.top ∧ treeChild t n true = r.top ∧
      l.StandsIn t ∧ r.StandsIn t

/-- The leaves, left to right, each with its path (R106). -/
def leaves : CodeTree → List (Nat × BitString)
  | leaf i => [(i, [])]
  | inner _ l r => l.leaves.map (Prod.map id (false :: ·)) ++ r.leaves.map (Prod.map id (true :: ·))

theorem mem_leaves_inner {n c : Nat} {l r : CodeTree} {p : BitString} :
    (c, p) ∈ (inner n l r).leaves ↔
      (∃ p', p = false :: p' ∧ (c, p') ∈ l.leaves) ∨ ∃ p', p = true :: p' ∧ (c, p') ∈ r.leaves := by
  have hmem : ∀ (b : Bool) (T : CodeTree),
      (c, p) ∈ T.leaves.map (Prod.map id (b :: ·)) ↔ ∃ p', p = b :: p' ∧ (c, p') ∈ T.leaves := fun b T => by
    simp only [List.mem_map, Prod.exists, Prod.map_apply, id, Prod.mk.injEq]
    constructor
    · rintro ⟨_, p', hp', rfl, rfl⟩
      exact ⟨p', rfl, hp'⟩
    · rintro ⟨p', rfl, hp'⟩
      exact ⟨c, p', hp', rfl, rfl⟩
  rw [leaves, List.mem_append, hmem, hmem]

end CodeTree

theorem CodeTree.StandsIn.treeValid_top {t : Sparse TreeNode} {T : CodeTree} (hT : T.StandsIn t) :
    treeValid t T.top = true := by
  cases T with
  | leaf i => exact hT.2
  | inner n l r => exact hT.2.1

theorem treeFollow_nil {t : Sparse TreeNode} {n c : Nat} (hp : treeFollow t n [] = some c) :
    c = n ∧ treeValid t c = true := by
  unfold treeFollow at hp
  split_ifs at hp with hv
  cases hp
  exact ⟨rfl, hv⟩

theorem treeFollow_append (t : Sparse TreeNode) (n : Nat) (p r : BitString) :
    treeFollow t n (p ++ r) = (treeFollow t n p).bind fun m => treeFollow t m r := by
  induction p generalizing n with
  | nil =>
    by_cases hv : treeValid t n = true
    · simp [treeFollow, hv]
    · cases r <;> simp [treeFollow, hv]
  | cons b p ih =>
    simp only [List.cons_append, treeFollow, ih]
    split_ifs <;> rfl

/-- A path leads to a node of the tree. -/
theorem treeValid_of_treeFollow {t : Sparse TreeNode} {n c : Nat} {p : BitString} (hp : treeFollow t n p = some c) :
    treeValid t c = true := by
  rw [← List.append_nil p, treeFollow_append] at hp
  obtain ⟨m, -, hm⟩ := Option.bind_eq_some_iff.1 hp
  exact (treeFollow_nil hm).2

theorem treeFollow_single {t : Sparse TreeNode} {m c : Nat} {b : Bool} (hp : treeFollow t m [b] = some c) :
    c = treeChild t m b := by
  rw [treeFollow] at hp
  split_ifs at hp
  exact (treeFollow_nil hp).1

section Walk

variable {s : State} (h : s.TreeOk)

include h

theorem State.TreeOk.ge_of_tag {n : Nat} (hv : treeValid s.node n = true) (ht : (nodeAt s.node n).tag = true) :
    256 ≤ n := by
  by_contra hlt
  exact absurd (ht.symm.trans (h.leaf n (Nat.lt_of_not_le hlt) hv).1) Bool.noConfusion

/-- Below every node of the arena stands a tree (R42). -/
theorem State.TreeOk.exists_codeTree {n : Nat} (hv : treeValid s.node n = true) :
    ∃ T : CodeTree, T.top = n ∧ T.StandsIn s.node := by
  induction n using Nat.strongRecOn with
  | ind n ih =>
    rcases Nat.lt_or_ge n 256 with hn | hn
    · exact ⟨.leaf n, rfl, hn, hv⟩
    · obtain ⟨-, -, hchild⟩ := h.inner n hn hv
      obtain ⟨l, hl, hls⟩ := ih _ (hchild false).1 (hchild false).2
      obtain ⟨r, hr, hrs⟩ := ih _ (hchild true).1 (hchild true).2
      exact ⟨.inner n l r, rfl, hn, hv, hl.symm, hr.symm, hls, hrs⟩

theorem treeFollow_cons {n : Nat} (hn : 256 ≤ n) (hv : treeValid s.node n = true) (b : Bool) (p : BitString) :
    treeFollow s.node n (b :: p) = treeFollow s.node (treeChild s.node n b) p := by
  simp [treeFollow, hv, (h.inner n hn hv).2.1]

theorem treeFollow_leaf {i : Nat} (hi : i < 256) (hv : treeValid s.node i = true) (p : BitString) (c : Nat) :
    treeFollow s.node i p = some c ↔ p = [] ∧ c = i := by
  cases p with
  | nil => simp [treeFollow, hv, eq_comm]
  | cons b p => simp [treeFollow, hv, (h.leaf i hi hv).1]

/-- The leaves are what the paths from the topmost node lead to (R92). -/
theorem CodeTree.mem_leaves_iff {T : CodeTree} (hT : T.StandsIn s.node) {c : Nat} {p : BitString} :
    (c, p) ∈ T.leaves ↔ c < 256 ∧ treeFollow s.node T.top p = some c := by
  induction T generalizing p with
  | leaf i =>
    obtain ⟨hi, hv⟩ := hT
    rw [top, treeFollow_leaf h hi hv]
    simp only [leaves, List.mem_singleton, Prod.mk.injEq]
    constructor
    · rintro ⟨rfl, rfl⟩
      exact ⟨hi, rfl, rfl⟩
    · rintro ⟨-, rfl, rfl⟩
      exact ⟨rfl, rfl⟩
  | inner n l r ihl ihr =>
    obtain ⟨hn, hv, hl, hr, hls, hrs⟩ := hT
    rw [mem_leaves_inner, top]
    cases p with
    | nil => simp [treeFollow, hv]; omega
    | cons b p =>
      rw [treeFollow_cons h hn hv]
      cases b
      · rw [hl, ← ihl hls]; simp
      · rw [hr, ← ihr hrs]; simp

theorem treeFollow_edge {n c : Nat} {b : Bool} {p : BitString} (hp : treeFollow s.node n (b :: p) = some c) :
    256 ≤ n ∧ treeValid s.node n = true ∧ treeFollow s.node (treeChild s.node n b) p = some c := by
  unfold treeFollow at hp
  split_ifs at hp with hn
  obtain ⟨hv, htag⟩ := Bool.and_eq_true_iff.1 hn
  exact ⟨h.ge_of_tag hv htag, hv, hp⟩

/-- A path goes down, since an Internal node is made after its children: it has at most one edge for each Internal node
up to the one it starts from (R42, R106). -/
theorem length_path_le {n c : Nat} {p : BitString} (hp : treeFollow s.node n p = some c) (hne : p ≠ []) :
    c < n ∧ p.length + 255 ≤ n := by
  induction p generalizing n with
  | nil => exact absurd rfl hne
  | cons b p ih =>
    obtain ⟨hn, hv, hp'⟩ := treeFollow_edge h hp
    obtain ⟨hlt, -⟩ := (h.inner n hn hv).2.2 b
    cases p with
    | nil =>
      exact ⟨(treeFollow_single hp).trans_lt hlt, by simpa using hn⟩
    | cons d p =>
      obtain ⟨hlt', hlen⟩ := ih hp' (List.cons_ne_nil d p)
      exact ⟨hlt'.trans hlt, by rw [List.length_cons]; omega⟩

/-- The last edge of a path. -/
theorem treeFollow_snoc {n c : Nat} {p : BitString} {b : Bool} (hp : treeFollow s.node n (p ++ [b]) = some c) :
    ∃ m, treeFollow s.node n p = some m ∧ 256 ≤ m ∧ treeValid s.node m = true ∧ treeChild s.node m b = c := by
  rw [treeFollow_append] at hp
  obtain ⟨m, hm, hlast⟩ := Option.bind_eq_some_iff.1 hp
  obtain ⟨hge, hv, -⟩ := treeFollow_edge h hlast
  exact ⟨m, hm, hge, hv, (treeFollow_single hlast).symm⟩

/-- Different paths lead to different nodes, since no node is the child of two edges (R42 c). -/
theorem treeFollow_inj {n c : Nat} {p p' : BitString} (hp : treeFollow s.node n p = some c)
    (hp' : treeFollow s.node n p' = some c) : p = p' := by
  have hnil : ∀ {r : BitString} {c : Nat}, treeFollow s.node n [] = some c → treeFollow s.node n r = some c →
      r = [] := by
    intro r c h₀ hr
    by_contra hne
    exact absurd (treeFollow_nil h₀).1 (length_path_le h hr hne).1.ne
  induction p using List.reverseRecOn generalizing p' c with
  | nil => exact (hnil hp hp').symm
  | append_singleton p b ih =>
    rcases List.eq_nil_or_concat' p' with rfl | ⟨p', b', rfl⟩
    · exact hnil hp' hp
    · obtain ⟨m, hm, hge, hv, hc⟩ := treeFollow_snoc h hp
      obtain ⟨m', hm', hge', hv', hc'⟩ := treeFollow_snoc h hp'
      obtain ⟨rfl, rfl⟩ := h.owner m m' b b' hge hge' hv hv' (hc.trans hc'.symm)
      rw [ih hm hm']

theorem CodeTree.nodup_leaves {T : CodeTree} (hT : T.StandsIn s.node) : (T.leaves.map Prod.fst).Nodup := by
  induction T with
  | leaf i => exact List.nodup_singleton i
  | inner n l r ihl ihr =>
    obtain ⟨hn, hv, hl, hr, hls, hrs⟩ := hT
    have hfst : ∀ (b : Bool) (T : CodeTree),
        (T.leaves.map (Prod.map id (b :: ·))).map Prod.fst = T.leaves.map Prod.fst := fun b T => by
      rw [List.map_map]
      rfl
    rw [leaves, List.map_append, hfst, hfst]
    refine List.nodup_append.2 ⟨ihl hls, ihr hrs, fun c hc c' hc' heq => ?_⟩
    subst heq
    obtain ⟨⟨_, p⟩, hp, rfl⟩ := List.mem_map.1 hc
    obtain ⟨⟨_, p'⟩, hp', rfl⟩ := List.mem_map.1 hc'
    have hleft := ((CodeTree.mem_leaves_iff h hls).1 hp).2
    have hright := ((CodeTree.mem_leaves_iff h hrs).1 hp').2
    rw [← hl, ← treeFollow_cons h hn hv] at hleft
    rw [← hr, ← treeFollow_cons h hn hv] at hright
    exact absurd (treeFollow_inj h hleft hright) (by simp)

end Walk

/-! ### What the walk writes -/

/-- Handing out Codes to leaves, in order (R106). -/
def giveCodes (ww : Nat) (nodes : Sparse TreeNode) (ls : List (Nat × BitString)) (g : CodeGen) : CodeGen :=
  ls.foldl (fun g e => giveCode ww (nodeAt nodes e.1) e.2 g) g

theorem giveCodes_append (ww : Nat) (nodes : Sparse TreeNode) (ls ls' : List (Nat × BitString)) (g : CodeGen) :
    giveCodes ww nodes (ls ++ ls') g = giveCodes ww nodes ls' (giveCodes ww nodes ls g) :=
  List.foldl_append

theorem assignCodes_leaf {nodes : Sparse TreeNode} {n : Nat} (hv : treeValid nodes n = true)
    (htag : (nodeAt nodes n).tag = false) (ww fuel : Nat) (path : BitString) (g : CodeGen) :
    assignCodes ww nodes (fuel + 1) n path g = some (giveCode ww (nodeAt nodes n) path g) := by
  have hvalid : (nodeAt nodes n).valid = true := hv
  simp [assignCodes, hvalid, htag]

theorem assignCodes_inner {nodes : Sparse TreeNode} {n : Nat} (hv : treeValid nodes n = true)
    (htag : (nodeAt nodes n).tag = true) (ww fuel : Nat) (path : BitString) (g : CodeGen) :
    assignCodes ww nodes (fuel + 1) n path g =
      (assignCodes ww nodes fuel (treeChild nodes n false) (path ++ [false]) g).bind
        (assignCodes ww nodes fuel (treeChild nodes n true) (path ++ [true])) := by
  have hvalid : (nodeAt nodes n).valid = true := hv
  simp only [assignCodes, hvalid, htag, treeChild, Bool.not_true, Bool.false_eq_true, if_false, if_true]
  cases assignCodes ww nodes fuel (nodeAt nodes n).left.toNat (path ++ [false]) g <;> rfl

/-- The walk from the topmost node of a tree hands out Codes to its leaves, left to right (R106). -/
theorem assignCodes_eq {s : State} (h : s.TreeOk) (ww : Nat) {T : CodeTree} (hT : T.StandsIn s.node) {fuel : Nat}
    (hfuel : T.top < fuel + 256) (path : BitString) (g : CodeGen) :
    assignCodes ww s.node (fuel + 1) T.top path g =
      some (giveCodes ww s.node (T.leaves.map (Prod.map id (path ++ ·))) g) := by
  induction T generalizing fuel path g with
  | leaf i =>
    obtain ⟨hi, hv⟩ := hT
    rw [CodeTree.top, assignCodes_leaf hv (h.leaf i hi hv).1]
    simp [CodeTree.leaves, giveCodes]
  | inner n l r ihl ihr =>
    obtain ⟨hn, hv, hl, hr, hls, hrs⟩ := hT
    obtain ⟨-, htag, hchild⟩ := h.inner n hn hv
    have hll := (hchild false).1
    have hrl := (hchild true).1
    rw [CodeTree.top] at hfuel
    obtain ⟨fuel, rfl⟩ := Nat.exists_eq_succ_of_ne_zero (show fuel ≠ 0 by omega)
    have hpath : ∀ (b : Bool) (T : CodeTree),
        (T.leaves.map (Prod.map id (b :: ·))).map (Prod.map id (path ++ ·)) =
          T.leaves.map (Prod.map id ((path ++ [b]) ++ ·)) := fun b T => by
      simp [Function.comp_def]
    rw [CodeTree.top, assignCodes_inner hv htag, hl, hr, ihl hls (by omega), Option.bind_some, ihr hrs (by omega),
      CodeTree.leaves, List.map_append, giveCodes_append, hpath, hpath]

/-- What CGEN hands out: nothing on the empty tree, the fallback Code to the sole Leaf, or to every leaf its path
(R106, R107). -/
inductive HandsOut (s : State) : List (Nat × BitString) → Prop
  | nothing (hnil : s.root = 0x1FF#9) : HandsOut s []
  | fallback (hlt : s.root.toNat < 256) (hv : treeValid s.node s.root.toNat = true) :
    HandsOut s [(s.root.toNat, [false])]
  | paths {T : CodeTree} (hnil : s.root ≠ 0x1FF#9) (hge : 256 ≤ s.root.toNat) (htop : T.top = s.root.toNat)
    (hT : T.StandsIn s.node) : HandsOut s T.leaves

/-- What CGEN has written when it has handed out `ls`. -/
def handedOut (s : State) (ls : List (Nat × BitString)) : CodeGen :=
  giveCodes (s.cfg.lenW + 16) s.node ls ⟨CodeTable.empty, 0⟩

theorem generateCodes_eq {s : State} (h : s.TreeOk) :
    ∃ ls, HandsOut s ls ∧ generateCodes s = some (handedOut s ls) := by
  by_cases hnil : s.root = 0x1FF#9
  · exact ⟨[], .nothing hnil, by simp [generateCodes, hnil, handedOut, giveCodes]⟩
  have hv : treeValid s.node s.root.toNat = true := h.root.resolve_left hnil
  have hvalid : (nodeAt s.node s.root.toNat).valid = true := hv
  rcases Nat.lt_or_ge s.root.toNat 256 with hlt | hge
  · refine ⟨_, .fallback hlt hv, ?_⟩
    simp [generateCodes, hnil, hvalid, (h.leaf _ hlt hv).1, handedOut, giveCodes]
  · obtain ⟨T, htop, hT⟩ := h.exists_codeTree hv
    obtain ⟨hle, htag, -⟩ := h.inner _ hge hv
    have hwalk := assignCodes_eq h (s.cfg.lenW + 16) hT (fuel := 255) (by omega) [] ⟨CodeTable.empty, 0⟩
    have hpath : T.leaves.map (Prod.map id (([] : BitString) ++ ·)) = T.leaves := List.map_id _
    rw [htop, hpath] at hwalk
    refine ⟨_, .paths hnil hge htop hT, ?_⟩
    simp [generateCodes, hnil, hvalid, htag, handedOut, hwalk]

/-! ### The table -/

/-- The table gives the Code `p` to the Symbol `c`, and zero bits past it; no Code is written `[]` (R40). -/
def CodeTable.Holds (t : CodeTable) (c : Nat) (p : BitString) : Prop :=
  t.len c = p.length ∧ ∀ k, k < 256 → t.bit c k = p.getD k false

theorem CodeTable.Holds.codeOf {t : CodeTable} {c : Nat} {p : BitString} (h : t.Holds c p) : t.codeOf c = p := by
  obtain ⟨hlen, hbit⟩ := h
  have hle := t.len_le c
  refine List.ext_getElem (by rw [CodeTable.length_codeOf, hlen]) fun k _ hk => ?_
  rw [CodeTable.getElem_codeOf, hbit k (by omega), List.getD_eq_getElem _ _ hk]

theorem CodeTable.holds_empty (c : Nat) : CodeTable.empty.Holds c [] := ⟨rfl, fun _ _ => by simp [bit, empty]⟩

theorem CodeTable.holds_setCode (t : CodeTable) {s : Nat} {p : BitString} (hp : p.length < 256) :
    (t.setCode s p).Holds s p :=
  ⟨t.len_setCode_same hp, fun _ hk => t.bit_setCode_same hk⟩

theorem CodeTable.Holds.setCode_other {t : CodeTable} {c s : Nat} {p q : BitString} (h : t.Holds c p) (hne : c ≠ s) :
    (t.setCode s q).Holds c p :=
  ⟨(t.len_setCode_other hne).trans h.1, fun k hk => (t.bit_setCode_other hne hk).trans (h.2 k hk)⟩

/-- What the walk of CGEN can hand out: to each leaf at most one Code, of 1 to 255 bits (R40, R106). -/
structure CodesOk (s : State) (ls : List (Nat × BitString)) : Prop where
  symbol : ∀ e ∈ ls, e.1 < 256 ∧ treeValid s.node e.1 = true
  length : ∀ e ∈ ls, 0 < e.2.length ∧ e.2.length < 256
  nodup : (ls.map Prod.fst).Nodup

theorem HandsOut.codesOk {s : State} (h : s.TreeOk) {ls : List (Nat × BitString)} (hls : HandsOut s ls) :
    CodesOk s ls := by
  cases hls with
  | nothing => exact ⟨by simp, by simp, List.nodup_nil⟩
  | fallback hlt hv => exact ⟨by simp [hlt, hv], by simp, List.nodup_singleton _⟩
  | @paths T _ hge htop hT =>
    have hmem : ∀ e ∈ T.leaves, e.1 < 256 ∧ treeFollow s.node T.top e.2 = some e.1 := fun e he =>
      (CodeTree.mem_leaves_iff h hT).1 he
    have hmax := (h.inner T.top (by omega) hT.treeValid_top).1
    refine ⟨fun e he => ⟨(hmem e he).1, treeValid_of_treeFollow (hmem e he).2⟩, fun e he => ?_,
      CodeTree.nodup_leaves h hT⟩
    obtain ⟨hlt, hpath⟩ := hmem e he
    have hne : e.2 ≠ [] := fun hnil => by
      rw [hnil] at hpath
      have := (treeFollow_nil hpath).1
      omega
    have hlen := (length_path_le h hpath hne).2
    exact ⟨List.length_pos_iff.2 hne, by omega⟩

/-- Frequency times Code length, added up over what is handed out (R106). -/
def pathWeight (nodes : Sparse TreeNode) (ls : List (Nat × BitString)) : Nat :=
  (ls.map fun e => (nodeAt nodes e.1).freq * e.2.length).sum

section HandsOut

variable {s : State} {ls : List (Nat × BitString)} (hls : HandsOut s ls)

include hls

theorem HandsOut.eq_nil (hnil : s.root = 0x1FF#9) : ls = [] := by
  cases hls with
  | nothing => rfl
  | fallback hlt => exact absurd hlt (by rw [hnil]; decide)
  | paths hne => exact absurd hnil hne

theorem HandsOut.eq_fallback (hlt : s.root.toNat < 256) : ls = [(s.root.toNat, [false])] := by
  cases hls with
  | nothing hnil => exact absurd hlt (by rw [hnil]; decide)
  | fallback => rfl
  | paths _ hge => exact absurd hlt (Nat.not_lt.2 hge)

theorem HandsOut.mem_iff (h : s.TreeOk) (hge : 256 ≤ s.root.toNat) (hnil : s.root ≠ 0x1FF#9) {c : Nat} {p : BitString} :
    (c, p) ∈ ls ↔ c < 256 ∧ treeFollow s.node s.root.toNat p = some c := by
  cases hls with
  | nothing heq => exact absurd heq hnil
  | fallback hlt => exact absurd hlt (Nat.not_lt.2 hge)
  | paths _ _ htop hT => rw [CodeTree.mem_leaves_iff h hT, htop]

end HandsOut

section Table

variable {s : State} (h : s.TreeOk) {ls : List (Nat × BitString)} {c : Nat} {p : BitString}

theorem CodesOk.tail {e : Nat × BitString} (hok : CodesOk s (e :: ls)) : CodesOk s ls :=
  ⟨fun x hx => hok.symbol x (List.mem_cons_of_mem _ hx), fun x hx => hok.length x (List.mem_cons_of_mem _ hx),
    hok.nodup.of_cons⟩

include h

/-- One Code handed out: the table after it, and the path length (R106). -/
theorem giveCodes_cons {ww : Nat} {e : Nat × BitString} (hok : CodesOk s (e :: ls)) (g : CodeGen) :
    giveCodes ww s.node (e :: ls) g = giveCodes ww s.node ls
      ⟨g.table.setCode e.1 e.2, trunc ww (g.wpl + (nodeAt s.node e.1).freq * e.2.length)⟩ := by
  obtain ⟨hlt, hv⟩ := hok.symbol e List.mem_cons_self
  rw [giveCodes, List.foldl_cons, giveCode, (h.leaf e.1 hlt hv).2]
  rfl

/-- A Symbol to which no Code is handed out keeps what it had. -/
theorem holds_giveCodes_other {ww : Nat} (hok : CodesOk s ls) {g : CodeGen} (hc : c ∉ ls.map Prod.fst)
    (hg : g.table.Holds c p) : (giveCodes ww s.node ls g).table.Holds c p := by
  induction ls generalizing g with
  | nil => exact hg
  | cons e ls ih =>
    obtain ⟨hne, hc⟩ := List.ne_and_not_mem_of_not_mem_cons hc
    rw [giveCodes_cons h hok]
    exact ih hok.tail hc (hg.setCode_other hne)

theorem holds_giveCodes_same {ww : Nat} (hok : CodesOk s ls) {g : CodeGen} (hc : (c, p) ∈ ls) :
    (giveCodes ww s.node ls g).table.Holds c p := by
  induction ls generalizing g with
  | nil => exact absurd hc List.not_mem_nil
  | cons e ls ih =>
    rw [giveCodes_cons h hok]
    rcases List.mem_cons.1 hc with rfl | hc
    · exact holds_giveCodes_other h hok.tail (List.nodup_cons.1 hok.nodup).1
        (CodeTable.holds_setCode _ (hok.length _ List.mem_cons_self).2)
    · exact ih hok.tail hc

/-- Each Symbol of the table has the Code handed out to it, or none (R106). -/
theorem holds_handedOut (hok : CodesOk s ls) (c : Nat) :
    (∃ p, (c, p) ∈ ls ∧ (handedOut s ls).table.Holds c p) ∨
      (c ∉ ls.map Prod.fst ∧ (handedOut s ls).table.Holds c []) := by
  by_cases hc : c ∈ ls.map Prod.fst
  · obtain ⟨⟨_, p⟩, hp, rfl⟩ := List.mem_map.1 hc
    exact .inl ⟨p, hp, holds_giveCodes_same h hok hp⟩
  · exact .inr ⟨hc, holds_giveCodes_other h hok hc (CodeTable.holds_empty c)⟩

theorem codeOf_handedOut_iff (hok : CodesOk s ls) :
    (0 < (handedOut s ls).table.len c ∧ (handedOut s ls).table.codeOf c = p) ↔ (c, p) ∈ ls := by
  constructor
  · rintro ⟨hpos, rfl⟩
    obtain ⟨p, hp, hholds⟩ | ⟨-, hholds⟩ := holds_handedOut h hok c
    · rwa [hholds.codeOf]
    · exact absurd hholds.1 hpos.ne'
  · intro hp
    have hholds : (handedOut s ls).table.Holds c p := holds_giveCodes_same h hok hp
    exact ⟨hholds.1 ▸ (hok.length _ hp).1, hholds.codeOf⟩

theorem len_handedOut_pos_iff (hok : CodesOk s ls) : 0 < (handedOut s ls).table.len c ↔ ∃ p, (c, p) ∈ ls := by
  simp only [← codeOf_handedOut_iff h hok]
  exact ⟨fun hpos => ⟨_, hpos, rfl⟩, fun ⟨_, hpos, _⟩ => hpos⟩

theorem bit_handedOut_past (hok : CodesOk s ls) {k : Nat} (hk : (handedOut s ls).table.len c ≤ k) (hk' : k < 256) :
    (handedOut s ls).table.bit c k = false := by
  obtain ⟨p, -, hlen, hbit⟩ | ⟨-, hlen, hbit⟩ := holds_handedOut h hok c <;>
    rw [hbit k hk', List.getD_eq_default _ _ (hlen.symm.trans_le hk)]

/-! ### The path length -/

theorem wpl_giveCodes {ww : Nat} (hok : CodesOk s ls) {g : CodeGen} (hg : g.wpl < 2 ^ ww) :
    (giveCodes ww s.node ls g).wpl = trunc ww (g.wpl + pathWeight s.node ls) := by
  induction ls generalizing g with
  | nil => exact (trunc_of_lt hg).symm
  | cons e ls ih =>
    rw [giveCodes_cons h hok, ih hok.tail (trunc_lt _ _), pathWeight, pathWeight, List.map_cons, List.sum_cons,
      ← Nat.add_assoc]
    exact Nat.mod_add_mod _ _ _

theorem wpl_handedOut (hok : CodesOk s ls) :
    (handedOut s ls).wpl = trunc (s.cfg.lenW + 16) (pathWeight s.node ls) := by
  rw [handedOut, wpl_giveCodes h hok (Nat.two_pow_pos _), Nat.zero_add]

/-- The path length over the Symbols of the table: a Symbol without a Code adds nothing (R106, R108). -/
theorem pathWeight_eq (hok : CodesOk s ls) :
    pathWeight s.node ls =
      ((List.range 256).map fun c => (nodeAt s.node c).freq * (handedOut s ls).table.len c).sum := by
  have hsub : (ls.map Prod.fst).toFinset ⊆ Finset.range 256 := fun c hc => by
    obtain ⟨e, he, rfl⟩ := List.mem_map.1 (List.mem_toFinset.1 hc)
    exact Finset.mem_range.2 (hok.symbol e he).1
  calc pathWeight s.node ls
      = ((ls.map Prod.fst).map fun c => (nodeAt s.node c).freq * (handedOut s ls).table.len c).sum := by
        rw [pathWeight, List.map_map]
        congr 1
        refine List.map_congr_left fun e he => ?_
        have hholds : (handedOut s ls).table.Holds e.1 e.2 := holds_giveCodes_same h hok he
        exact congrArg ((nodeAt s.node e.1).freq * ·) hholds.1.symm
    _ = ∑ c ∈ (ls.map Prod.fst).toFinset, (nodeAt s.node c).freq * (handedOut s ls).table.len c :=
        (List.sum_toFinset _ hok.nodup).symm
    _ = ∑ c ∈ Finset.range 256, (nodeAt s.node c).freq * (handedOut s ls).table.len c :=
        Finset.sum_subset hsub fun c _ hc => by
          obtain ⟨p, hp, -⟩ | ⟨-, hholds⟩ := holds_handedOut h hok c
          · exact absurd (List.mem_toFinset.2 (List.mem_map.2 ⟨(c, p), hp, rfl⟩)) hc
          · rw [hholds.1, List.length_nil, Nat.mul_zero]
    _ = ((List.range 256).map fun c => (nodeAt s.node c).freq * (handedOut s ls).table.len c).sum :=
        (sum_map_range 256 _).symm

end Table

/-! ### CGEN -/

/-- The state CGEN leaves when it has handed out `ls` (R106). -/
def State.coded (s : State) (ls : List (Nat × BitString)) : State :=
  { s with table := (handedOut s ls).table, wpl := (handedOut s ls).wpl }.retire

theorem exec_cgen {s : State} (he : s.err = 0#8) (h : s.TreeOk) :
    ∃ ls, HandsOut s ls ∧ exec .cgen s = .next (s.coded ls) := by
  obtain ⟨ls, hls, hg⟩ := generateCodes_eq h
  refine ⟨ls, hls, ?_⟩
  rw [exec, execCgen, unlessStopped_running he, hg]
  rfl

/-- Settles O34: the three things CGEN can hand out give the three clauses about Codes. -/
theorem cgenWritesTheRootToLeafPaths : Obligations.CgenWritesTheRootToLeafPaths := by
  unfold Obligations.CgenWritesTheRootToLeafPaths
  intro s he h
  obtain ⟨ls, hls, hrun⟩ := exec_cgen he h
  have hok := hls.codesOk h
  refine ⟨s.coded ls, hrun, rfl, fun hnil c => ?_, fun hlt c => ?_, fun hge hnil c p => ?_,
    fun c k hk hk' => bit_handedOut_past h hok hk hk', ?_⟩
  · cases hls.eq_nil hnil
    rfl
  · cases hls.eq_fallback hlt
    change (handedOut s _).table.codeOf c.toNat = _
    split_ifs with hc
    · exact ((codeOf_handedOut_iff h hok).2 (by simp [hc])).2
    · obtain ⟨p, hp, -⟩ | ⟨-, hholds⟩ := holds_handedOut h hok c.toNat
      · exact absurd (congrArg Prod.fst (List.mem_singleton.1 hp)) hc
      · exact hholds.codeOf
  · exact (codeOf_handedOut_iff h hok).trans ((hls.mem_iff h hge hnil).trans (and_iff_right c.isLt))
  · exact (wpl_handedOut h hok).trans (congrArg _ (pathWeight_eq h hok))

end Sys2Proof.Machine

/-! PROOFS. The Codes of the tree that TBLD builds: one for every Symbol of positive frequency, none of them the
beginning of another, and together complete (R109). -/

namespace Sys2Proof.Machine

open Sys2Proof.Claims

/-! ### What the leaves' paths have in common -/

/-- No path ends where another goes on, since a leaf has no edge (R109 b). -/
theorem HandsOut.eq_of_prefix {s : State} (h : s.TreeOk) {ls : List (Nat × BitString)} (hls : HandsOut s ls)
    {c c' : Nat} {p p' : BitString} (hc : (c, p) ∈ ls) (hc' : (c', p') ∈ ls) (hpre : p <+: p') : c = c' := by
  cases hls with
  | nothing => exact absurd hc List.not_mem_nil
  | fallback => rw [(Prod.mk.inj (List.mem_singleton.1 hc)).1, (Prod.mk.inj (List.mem_singleton.1 hc')).1]
  | paths _ _ _ hT =>
    obtain ⟨hlt, hp⟩ := (CodeTree.mem_leaves_iff h hT).1 hc
    obtain ⟨-, hp'⟩ := (CodeTree.mem_leaves_iff h hT).1 hc'
    obtain ⟨r, rfl⟩ := hpre
    rw [treeFollow_append, hp, Option.bind_some,
      treeFollow_leaf h hlt (treeValid_of_treeFollow hp)] at hp'
    exact hp'.2.symm

/-- Every infinite sequence of bits leads from the top of a tree to a leaf (R109 c). -/
theorem CodeTree.exists_leaf_of_bits (T : CodeTree) (f : Nat → Bool) :
    ∃ c p, (c, p) ∈ T.leaves ∧ p = (List.range p.length).map f := by
  induction T generalizing f with
  | leaf i => exact ⟨i, [], List.mem_singleton_self _, rfl⟩
  | inner n l r ihl ihr =>
    have hcons : ∀ p : BitString, p = (List.range p.length).map (fun k => f (k + 1)) →
        f 0 :: p = (List.range (f 0 :: p).length).map f := fun p hp => by
      rw [List.length_cons, List.range_succ_eq_map, List.map_cons, List.map_map]
      exact congrArg (f 0 :: ·) hp
    cases hb : f 0 with
    | false =>
      obtain ⟨c, p, hmem, hp⟩ := ihl fun k => f (k + 1)
      exact ⟨c, false :: p, mem_leaves_inner.2 (.inl ⟨p, rfl, hmem⟩), hb ▸ hcons p hp⟩
    | true =>
      obtain ⟨c, p, hmem, hp⟩ := ihr fun k => f (k + 1)
      exact ⟨c, true :: p, mem_leaves_inner.2 (.inr ⟨p, rfl, hmem⟩), hb ▸ hcons p hp⟩

theorem map_range_prefix (f : Nat → Bool) {m n : Nat} (hmn : m ≤ n) :
    (List.range m).map f <+: (List.range n).map f := by
  refine List.IsPrefix.map f ⟨(List.range (n - m)).map (m + ·), ?_⟩
  rw [← List.range_add, Nat.add_sub_cancel' hmn]

/-- Every infinite sequence of bits begins with a Code, where the tree has an Internal node (R109 c). -/
theorem HandsOut.exists_mem_of_bits {s : State} {ls : List (Nat × BitString)} (hls : HandsOut s ls)
    (hge : 256 ≤ s.root.toNat) (hnil : s.root ≠ 0x1FF#9) (f : Nat → Bool) :
    ∃ c p, (c, p) ∈ ls ∧ p = (List.range p.length).map f := by
  cases hls with
  | nothing heq => exact absurd heq hnil
  | fallback hlt => exact absurd hlt (Nat.not_lt.2 hge)
  | @paths T => exact T.exists_leaf_of_bits f

/-! ### The tree that TBLD builds -/

/-- A path starts from a node of the tree. -/
theorem treeValid_of_treeFollow_start {t : Sparse TreeNode} {n c : Nat} {p : BitString}
    (hp : treeFollow t n p = some c) : treeValid t n = true := by
  rw [← List.nil_append p, treeFollow_append] at hp
  obtain ⟨m, hm, -⟩ := Option.bind_eq_some_iff.1 hp
  obtain ⟨rfl, hv⟩ := treeFollow_nil hm
  exact hv

section Built

variable {s : State}

/-- TBLD leaves an arena that holds trees (R42). -/
theorem State.treeOk_built (hf : ∀ i, i < 256 → Sparse.get 0 s.freq i < 2 ^ s.cfg.lenW) : s.built.TreeOk := by
  obtain ⟨k, h, hlen⟩ := arenaOk_builtTree hf
  have hsize := h.queue.size
  have hfinished := h.finished hlen
  have hk : k ≤ 255 := by
    obtain ⟨-, hk, -⟩ | ⟨r, hq, -⟩ := hfinished
    · omega
    · rw [hq, List.length_singleton] at hsize
      omega
  have hforest := h.queue.forest
  refine ⟨hforest.leaf, fun i hi hv => ?_, hforest.owner, ?_⟩
  · obtain ⟨hlt, hinner⟩ := hforest.inner i hi hv
    exact ⟨by omega, hinner⟩
  · obtain ⟨hq, -⟩ | ⟨r, hq, hr, -⟩ := hfinished
    · exact .inl (by rw [State.root_built, hq]; rfl)
    · right
      rw [State.root_built, State.node_built, hr]
      exact (h.queue.roots r (by simp [hq])).1

/-- From ROOT a path leads to every node: from its owner's path, or it is the root (R42 c). -/
theorem State.exists_path_built (hf : ∀ i, i < 256 → Sparse.get 0 s.freq i < 2 ^ s.cfg.lenW) {n : Nat}
    (hv : treeValid s.built.node n = true) : ∃ p, treeFollow s.built.node s.built.root.toNat p = some n := by
  have htree := State.treeOk_built hf
  obtain ⟨k, h, hlen⟩ := arenaOk_builtTree hf
  induction hd : 511 - n using Nat.strongRecOn generalizing n with
  | ind d ih =>
    by_cases hn : n = s.built.root.toNat
    · exact ⟨[], by rw [← hn]; exact if_pos hv⟩
    · obtain ⟨⟨j, b⟩, hvj, htag, hchild⟩ := (h.existsUnique_owner hv (h.not_mem_of_ne_root hlen hn)).exists
      obtain ⟨hj, -, hdown⟩ := htree.inner j (htree.ge_of_tag hvj htag) hvj
      have hnj : n < j := hchild ▸ (hdown b).1
      obtain ⟨p, hp⟩ := ih _ (by omega) hvj rfl
      refine ⟨p ++ [b], ?_⟩
      rw [treeFollow_append, hp, Option.bind_some, treeFollow_cons htree (htree.ge_of_tag hvj htag) hvj]
      exact (congrArg (treeFollow s.built.node · []) hchild).trans (if_pos hv)

/-- The Symbols to which CGEN hands out Codes are those of positive frequency (R109 a). -/
theorem HandsOut.exists_mem_iff (hf : ∀ i, i < 256 → Sparse.get 0 s.freq i < 2 ^ s.cfg.lenW)
    {ls : List (Nat × BitString)} (hls : HandsOut s.built ls) {c : Nat} (hc : c < 256) :
    (∃ p, (c, p) ∈ ls) ↔ 0 < Sparse.get 0 s.freq c := by
  have htree := State.treeOk_built hf
  obtain ⟨k, h, -⟩ := arenaOk_builtTree hf
  constructor
  · rintro ⟨p, hp⟩
    exact (h.treeValid_leaf hc).1 ((hls.codesOk htree).symbol _ hp).2
  · intro hpos
    have hv := (h.treeValid_leaf hc).2 hpos
    obtain ⟨p, hp⟩ := State.exists_path_built hf hv
    cases hls with
    | nothing hnil =>
      have hroot := congrArg BitVec.toNat hnil
      rw [hroot] at hp
      exact absurd (htree.inner 511 (by omega) (treeValid_of_treeFollow_start hp)).1 (by omega)
    | fallback hlt hv' => exact ⟨[false], by rw [((treeFollow_leaf htree hlt hv' p c).1 hp).2]; simp⟩
    | paths _ _ htop hT => exact ⟨p, (CodeTree.mem_leaves_iff htree hT).2 ⟨hc, by rw [htop]; exact hp⟩⟩

/-- NLEAF counts the Symbols of positive frequency, and says where ROOT is (R104). -/
theorem State.root_built_cases (hf : ∀ i, i < 256 → Sparse.get 0 s.freq i < 2 ^ s.cfg.lenW) :
    (s.built.nleaf.toNat = 1 → s.built.root.toNat < 256) ∧
      (2 ≤ s.built.nleaf.toNat → 256 ≤ s.built.root.toNat ∧ s.built.root ≠ 0x1FF#9) := by
  obtain ⟨k, h, hlen⟩ := arenaOk_builtTree hf
  have hle := length_presentSymbols_le s.freq
  have hcount : s.built.nleaf.toNat = (presentSymbols s.freq).length :=
    Nat.mod_eq_of_lt (show (presentSymbols s.freq).length < 512 by omega)
  obtain ⟨-, hone, htwo⟩ := h.leafCounts hlen
  rw [hcount, State.root_built]
  refine ⟨fun hl => (hone hl).1, fun hl => ?_⟩
  have hroot := (htwo hl).1
  refine ⟨by omega, fun hnil => ?_⟩
  rw [hnil, show (0x1FF#9).toNat = 511 from rfl] at hroot
  omega

end Built

/-- Settles O36: what CGEN hands out on the tree that TBLD builds has the four properties of R109. -/
theorem generatedTableIsPrefixFree : Obligations.GeneratedTableIsPrefixFree := by
  unfold Obligations.GeneratedTableIsPrefixFree
  intro s he _ hf
  have h := State.treeOk_built hf
  obtain ⟨ls, hls, hrun⟩ := exec_cgen (s := s.built) he h
  have hok := hls.codesOk h
  obtain ⟨hone, htwo⟩ := State.root_built_cases hf
  have hcode : ∀ {i}, 0 < (s.built.coded ls).table.len i → (i, (s.built.coded ls).table.codeOf i) ∈ ls :=
    fun hi => (codeOf_handedOut_iff h hok).1 ⟨hi, rfl⟩
  refine ⟨s.built.coded ls, ⟨s.built, exec_tbld he, _, hrun, rfl⟩, he, fun i hi => ?_, fun i j _ _ hij hi hj hpre => ?_,
    fun hl f => ?_, fun hl i hi => ?_, fun i k _ hk hk' => bit_handedOut_past h hok hk hk'⟩
  · exact (len_handedOut_pos_iff h hok).trans (hls.exists_mem_iff hf hi)
  · exact hij (hls.eq_of_prefix h (hcode hi) (hcode hj) hpre)
  · obtain ⟨hge, hnil⟩ := htwo hl
    obtain ⟨c, p, hmem, hp⟩ := hls.exists_mem_of_bits hge hnil f
    obtain ⟨hpos, hcp⟩ := (codeOf_handedOut_iff h hok).2 hmem
    have hcf : (s.built.coded ls).table.codeOf c = (List.range ((s.built.coded ls).table.len c)).map f := by
      rw [← CodeTable.length_codeOf]
      exact hcp ▸ hp
    refine ⟨c, ⟨(hok.symbol _ hmem).1, hpos, hcf⟩, ?_⟩
    rintro i ⟨-, hi, hif⟩
    rcases Nat.le_total ((s.built.coded ls).table.len i) ((s.built.coded ls).table.len c) with hle | hle
    · exact hls.eq_of_prefix h (hcode hi) (hcode hpos) (by rw [hif, hcf]; exact map_range_prefix f hle)
    · exact (hls.eq_of_prefix h (hcode hpos) (hcode hi) (by rw [hif, hcf]; exact map_range_prefix f hle)).symm
  · cases hls.eq_fallback (hone hl)
    exact congrArg Prod.snd (List.mem_singleton.1 (hcode hi))

end Sys2Proof.Machine

/-! PROOFS. WPL after FCNT, TBLD and CGEN: it is the number of code bits of the input (R108), and the merges of the
lowest two keep it at 8 bits a byte or less (R111). -/

namespace Sys2Proof.Machine

open Sys2Proof.Claims

/-! ### The number of code bits -/

/-- The Leaf of a Symbol has its frequency, and where there is none both are 0 (R104). -/
theorem State.freq_built {s : State} (hf : ∀ i, i < 256 → Sparse.get 0 s.freq i < 2 ^ s.cfg.lenW) {c : Nat}
    (hc : c < 256) : (nodeAt s.built.node c).freq = Sparse.get 0 s.freq c := by
  obtain ⟨k, h, -⟩ := arenaOk_builtTree hf
  rw [State.node_built, h.leaf c hc]
  split_ifs with hpos
  · rfl
  · exact (Nat.eq_zero_of_not_pos hpos).symm

theorem State.treeOk_counted_built (s : State) : s.counted.built.TreeOk :=
  State.treeOk_built fun i _ => get_counted_lt s i

theorem runs_fcnt_tbld_cgen {s : State} (he : s.err = 0#8) (hc : s.cfg.wellFormed = true)
    (hlen : s.ilen ≤ s.cfg.bufBytes) :
    ∃ ls, HandsOut s.counted.built ls ∧ runs [.fcnt, .tbld, .cgen] s (s.counted.built.coded ls) := by
  obtain ⟨ls, hls, hrun⟩ := exec_cgen (s := s.counted.built) he s.treeOk_counted_built
  exact ⟨ls, hls, s.counted, exec_fcnt he hc hlen, s.counted.built, exec_tbld he, _, hrun, rfl⟩

section Encoded

variable {s : State} {ls : List (Nat × BitString)} (hls : HandsOut s.counted.built ls)

include hls

/-- The weighted path length over the Symbols (R108). -/
theorem pathWeight_counted : pathWeight s.counted.built.node ls =
    ((List.range 256).map fun c =>
      Sparse.get 0 s.counted.freq c * (handedOut s.counted.built ls).table.len c).sum := by
  have h := s.treeOk_counted_built
  rw [pathWeight_eq h (hls.codesOk h)]
  refine congrArg List.sum (List.map_congr_left fun c hc => ?_)
  rw [State.freq_built (s := s.counted) (fun i _ => get_counted_lt s i) (List.mem_range.1 hc)]

variable (hc : s.cfg.wellFormed = true) (hlen : s.ilen ≤ s.cfg.bufBytes)

include hc hlen

/-- The weighted path length is the number of code bits of the input (R108). -/
theorem pathWeight_eq_codeBits : pathWeight s.counted.built.node ls =
    ((s.ibuf.bytes s.ilen).map fun b => (handedOut s.counted.built ls).table.len b.toNat).sum :=
  (pathWeight_counted hls).trans (sum_count_mul _ (get_counted hc hlen) _)

/-- WPL is wide enough: a Code has at most 255 bits, and the input fewer than 2^LEN_W bytes (R31). -/
theorem wpl_eq_pathWeight : (handedOut s.counted.built ls).wpl = pathWeight s.counted.built.node ls := by
  have h := s.treeOk_counted_built
  have hle : pathWeight s.counted.built.node ls ≤ s.ilen * 255 := by
    rw [pathWeight_eq_codeBits hls hc hlen]
    have hsum := List.sum_le_card_nsmul
      ((s.ibuf.bytes s.ilen).map fun b => (handedOut s.counted.built ls).table.len b.toNat) 255 fun v hv => by
        obtain ⟨b, -, rfl⟩ := List.mem_map.1 hv
        exact CodeTable.len_le _ _
    rwa [List.length_map, Memory.length_bytes, smul_eq_mul] at hsum
  have hfit := hlen.trans_lt (Config.bufBytes_lt hc)
  refine (wpl_handedOut h (hls.codesOk h)).trans (trunc_of_lt ?_)
  calc pathWeight s.counted.built.node ls ≤ s.ilen * 255 := hle
    _ < 2 ^ s.cfg.lenW * 2 ^ 16 := Nat.mul_lt_mul_of_lt_of_le hfit (by omega) (by omega)
    _ = 2 ^ (s.cfg.lenW + 16) := (Nat.pow_add _ _ _).symm

end Encoded

/-- Settles O37: WPL holds the weighted path length in full, which counts each byte's Code. -/
theorem wplIsTheTotalOfCodeBits : Obligations.WplIsTheTotalOfCodeBits := by
  unfold Obligations.WplIsTheTotalOfCodeBits
  intro s he hc hlen
  obtain ⟨ls, hls, hrun⟩ := runs_fcnt_tbld_cgen he hc hlen
  have hwpl := wpl_eq_pathWeight hls hc hlen
  refine ⟨_, hrun, he, hwpl.trans (pathWeight_counted hls), ?_⟩
  refine (hwpl.trans (pathWeight_eq_codeBits hls hc hlen)).trans ?_
  rw [Memory.bytes, List.map_map]
  rfl

/-! ### The bound -/

/-- The frequencies of the leaves, added up. -/
def leafWeight (nodes : Sparse TreeNode) (ls : List (Nat × BitString)) : Nat :=
  (ls.map fun e => (nodeAt nodes e.1).freq).sum

/-- One edge more above the leaves adds their frequencies to the path length. -/
theorem pathWeight_prepend (nodes : Sparse TreeNode) (b : Bool) (ls : List (Nat × BitString)) :
    pathWeight nodes (ls.map (Prod.map id (b :: ·))) = pathWeight nodes ls + leafWeight nodes ls := by
  rw [pathWeight, pathWeight, leafWeight, ← List.sum_map_add, List.map_map]
  rfl

theorem leafWeight_prepend (nodes : Sparse TreeNode) (b : Bool) (ls : List (Nat × BitString)) :
    leafWeight nodes (ls.map (Prod.map id (b :: ·))) = leafWeight nodes ls := by
  rw [leafWeight, leafWeight, List.map_map]
  rfl

/-- `cost` adds up the frequencies of the Internal nodes of every tree in the arena. -/
structure Costs (nodes : Sparse TreeNode) (cost : Nat → Nat) : Prop where
  leaf : ∀ i, i < 256 → cost i = 0
  inner : ∀ i, 256 ≤ i → treeValid nodes i = true →
    cost i = (nodeAt nodes i).freq + cost (treeChild nodes i false) + cost (treeChild nodes i true)

/-- The path length of a tree is the sum of its Internal nodes' frequencies: each node above a leaf counts the leaf's
frequency once. -/
theorem pathWeight_leaves {nodes : Sparse TreeNode} {cost : Nat → Nat} (hcost : Costs nodes cost)
    (hsums : ∀ i, 256 ≤ i → treeValid nodes i = true → SumsChildren nodes i) {T : CodeTree} (hT : T.StandsIn nodes) :
    pathWeight nodes T.leaves = cost T.top ∧ leafWeight nodes T.leaves = (nodeAt nodes T.top).freq := by
  induction T with
  | leaf i => simp [CodeTree.leaves, CodeTree.top, pathWeight, leafWeight, hcost.leaf i hT.1]
  | inner n l r ihl ihr =>
    obtain ⟨hn, hv, hl, hr, hls, hrs⟩ := hT
    obtain ⟨hlp, hlw⟩ := ihl hls
    obtain ⟨hrp, hrw⟩ := ihr hrs
    have hsum := (hsums n hn hv).2
    have hinner := hcost.inner n hn hv
    rw [hl, hr] at hsum hinner
    have happend : ∀ ls ls', pathWeight nodes (ls ++ ls') = pathWeight nodes ls + pathWeight nodes ls' := by
      simp [pathWeight]
    have happend' : ∀ ls ls', leafWeight nodes (ls ++ ls') = leafWeight nodes ls + leafWeight nodes ls' := by
      simp [leafWeight]
    rw [CodeTree.leaves, CodeTree.top, happend, happend', pathWeight_prepend, pathWeight_prepend, leafWeight_prepend,
      leafWeight_prepend, hlp, hlw, hrp, hrw]
    omega

/-- What a merge does to a sum over the queue. -/
theorem sum_map_merge {q : List Nat} {a b n : Nat} {w w' : Nat → Nat} (ha : a ∈ q) (hb : b ∈ q.erase a)
    (hold : ∀ i ∈ (q.erase a).erase b, w' i = w i) :
    (((q.erase a).erase b ++ [n]).map w').sum + (w a + w b) = (q.map w).sum + w' n := by
  rw [((perm_erase_erase ha hb).map w).sum_eq, List.map_append, List.map_congr_left hold]
  simp only [List.map_cons, List.map_nil, List.sum_append, List.sum_cons, List.sum_nil]
  omega

/-- The bound of R111 while the tree is built, `W` being the frequencies added up. Let the members `deep` of the queue
have Codes of `L + 1` bits and the others Codes of `L` bits: there are enough such Codes (Kraft's inequality), and their
weighted length, added to the cost of the trees built so far, is at most 8 bits a byte. -/
structure RoomLeft (W : Nat) (nodes : Sparse TreeNode) (q : List Nat) (cost : Nat → Nat) (L : Nat) (deep : List Nat) :
    Prop where
  costs : Costs nodes cost
  total : queueFreq nodes q = W
  sub : deep.Subperm q
  kraft : 2 * q.length ≤ deep.length + 2 ^ (L + 1)
  room : (q.map cost).sum + L * W + queueFreq nodes deep ≤ 8 * W

/-- Where fewer than two members are deep, all of them are one level further up. -/
theorem RoomLeft.deepen {W : Nat} {nodes : Sparse TreeNode} {q : List Nat} {cost : Nat → Nat} {L : Nat}
    {deep : List Nat} (h : RoomLeft W nodes q cost L deep) (hq : 2 ≤ q.length) :
    ∃ L' deep', RoomLeft W nodes q cost L' deep' ∧ 2 ≤ deep'.length := by
  by_cases hdeep : 2 ≤ deep.length
  · exact ⟨L, deep, h, hdeep⟩
  · have hkraft := h.kraft
    have hroom := h.room
    obtain ⟨L, rfl⟩ : ∃ L', L = L' + 1 := Nat.exists_eq_succ_of_ne_zero fun h₀ => by
      rw [h₀] at hkraft
      omega
    rw [Nat.pow_succ] at hkraft
    refine ⟨L, q, ⟨h.costs, h.total, List.Subperm.refl q, by omega, ?_⟩, hq⟩
    rw [h.total]
    rw [Nat.succ_mul] at hroom
    omega

/-- The lowest member may take the place of any deep one, for no more bits. -/
theorem exists_deep_erase {nodes : Sparse TreeNode} {q deep : List Nat} {a : Nat} (ha : Lowest nodes q a)
    (hsub : deep.Subperm q) (hpos : 0 < deep.length) :
    ∃ deep', deep'.Subperm (q.erase a) ∧ deep'.length + 1 = deep.length ∧
      queueFreq nodes deep' + (nodeAt nodes a).freq ≤ queueFreq nodes deep := by
  by_cases hmem : a ∈ deep
  · refine ⟨deep.erase a, hsub.erase a, List.length_erase_add_one hmem, ?_⟩
    rw [queueFreq_erase nodes hmem, Nat.add_comm]
  · obtain ⟨d, deep, rfl⟩ := List.exists_cons_of_length_pos hpos
    have hle := ha.freq_le (hsub.subset List.mem_cons_self)
    have htail := ((List.sublist_cons_self d deep).subperm.trans hsub).erase a
    rw [List.erase_of_not_mem fun h => hmem (List.mem_cons_of_mem d h)] at htail
    refine ⟨deep, htail, rfl, ?_⟩
    simp only [queueFreq, List.map_cons, List.sum_cons]
    omega

section Merge

variable {fw : Nat} {freq : Sparse Nat} {nodes : Sparse TreeNode} {q : List Nat} {k a b : Nat}
  (h : ArenaOk fw freq nodes q k) (ha : a ∈ q) (hb : b ∈ q.erase a)

include h

theorem ArenaOk.not_mem_new : 256 + k ∉ q := fun hmem =>
  lt_irrefl _ (h.queue.forest.valid_lt (by omega) (h.queue.roots _ hmem).1)

include ha hb

theorem ArenaOk.freq_joined_new : (nodeAt (joined fw nodes (256 + k) a b) (256 + k)).freq =
    (nodeAt nodes a).freq + (nodeAt nodes b).freq := by
  have hfits := h.fits
  rw [queueFreq_erase nodes ha, queueFreq_erase nodes hb] at hfits
  rw [nodeAt_joined_new]
  exact trunc_of_lt (by omega)

/-- The cost of the new node's tree, and of the others, which stay as they were. -/
theorem Costs.merge {cost : Nat → Nat} (hcost : Costs nodes cost) :
    Costs (joined fw nodes (256 + k) a b) (Function.update cost (256 + k)
      ((nodeAt nodes a).freq + (nodeAt nodes b).freq + cost a + cost b)) := by
  have hforest := h.queue.forest
  have hn := h.queue.new_index ha hb
  have hra := h.queue.roots a ha
  have hrb := h.queue.roots b (List.mem_of_mem_erase hb)
  have hold : ∀ {v i}, treeValid nodes i = true → Function.update cost (256 + k) v i = cost i := fun hv =>
    Function.update_of_ne (hforest.valid_lt hn.1 hv).ne _ _
  refine ⟨fun i hi => ?_, fun i hi hv => ?_⟩
  · rw [Function.update_of_ne (by omega), hcost.leaf i hi]
  · rcases eq_or_ne i (256 + k) with rfl | hne
    · have hchild := treeChild_joined_new hforest hn hra hrb
      rw [Function.update_self, h.freq_joined_new ha hb, hchild, hchild, if_neg Bool.false_ne_true, if_pos rfl,
        hold hra.1, hold hrb.1]
    · rw [treeValid_joined_other hne] at hv
      obtain ⟨-, -, hchild⟩ := hforest.inner i hi hv
      rw [hold hv, nodeAt_joined_other hne, treeChild_joined_other hne, treeChild_joined_other hne,
        hold (hchild false).2, hold (hchild true).2, hcost.inner i hi hv]

end Merge

/-- A merge of the lowest two takes two deep members, and its cost is the bit more that they had room for. -/
theorem RoomLeft.merge {W fw : Nat} {freq : Sparse Nat} {nodes : Sparse TreeNode} {q : List Nat} {k a b : Nat}
    (harena : ArenaOk fw freq nodes q k) (ha : Lowest nodes q a) (hb : Lowest nodes (q.erase a) b)
    {cost : Nat → Nat} {L : Nat} {deep : List Nat} (h : RoomLeft W nodes q cost L deep) :
    ∃ cost' L' deep', RoomLeft W (joined fw nodes (256 + k) a b) ((q.erase a).erase b ++ [256 + k]) cost' L' deep' := by
  have hlen := length_erase_erase ha.1 hb.1
  obtain ⟨L, deep, h, hdeep⟩ := h.deepen (by omega)
  obtain ⟨deep₁, hsub₁, hlen₁, hfreq₁⟩ := exists_deep_erase ha h.sub (by omega)
  obtain ⟨deep₂, hsub₂, hlen₂, hfreq₂⟩ := exists_deep_erase hb hsub₁ (by omega)
  have hnew := harena.freq_joined_new ha.1 hb.1
  have hfresh : ∀ i ∈ (q.erase a).erase b, i ≠ 256 + k := fun i hi =>
    ne_of_mem_of_not_mem (List.mem_of_mem_erase (List.mem_of_mem_erase hi)) harena.not_mem_new
  have htotal := sum_map_merge (n := 256 + k) (w := fun i => (nodeAt nodes i).freq)
    (w' := fun i => (nodeAt (joined fw nodes (256 + k) a b) i).freq) ha.1 hb.1
    fun i hi => by rw [nodeAt_joined_other (hfresh i hi)]
  have hcost := sum_map_merge (n := 256 + k) (w := cost) (w' := Function.update cost (256 + k)
    ((nodeAt nodes a).freq + (nodeAt nodes b).freq + cost a + cost b)) ha.1 hb.1
    fun i hi => Function.update_of_ne (hfresh i hi) _ _
  rw [Function.update_self] at hcost
  have hkraft := h.kraft
  have hroom := h.room
  have hW := h.total
  refine ⟨_, L, deep₂, h.costs.merge harena ha.1 hb.1, ?_, hsub₂.trans (List.sublist_append_left _ _).subperm, ?_, ?_⟩
  · simp only [queueFreq] at htotal hW ⊢
    omega
  · rw [List.length_append, List.length_singleton]
    omega
  · rw [queueFreq_joined fun hmem => hfresh _ (hsub₂.subset hmem) rfl]
    omega

/-- Before the first merge every leaf has room for 8 bits: there are 256 at most. -/
theorem roomLeft_leaves (freq : Sparse Nat) :
    RoomLeft (queueFreq (plantLeaves freq (presentSymbols freq)) (presentSymbols freq))
      (plantLeaves freq (presentSymbols freq)) (presentSymbols freq) (fun _ => 0) 7 (presentSymbols freq) where
  costs := ⟨fun _ _ => rfl, fun i hi hv =>
    absurd (mem_presentSymbols.1 (treeValid_leaves.1 hv)).1 (Nat.not_lt.2 hi)⟩
  total := rfl
  sub := List.Subperm.refl _
  kraft := by
    have := length_presentSymbols_le freq
    omega
  room := by
    rw [List.map_const', List.sum_replicate, smul_zero]
    omega

/-- The leaves' frequencies added up are the counters added up. -/
theorem queueFreq_leaves (freq : Sparse Nat) :
    queueFreq (plantLeaves freq (presentSymbols freq)) (presentSymbols freq) =
      ((List.range 256).map fun i => Sparse.get 0 freq i).sum := by
  have hfilter : ∀ l : List Nat, ((l.filter fun i => decide (0 < Sparse.get 0 freq i)).map (Sparse.get 0 freq)).sum =
      (l.map (Sparse.get 0 freq)).sum := fun l => by
    induction l with
    | nil => rfl
    | cons i l ih =>
      by_cases hpos : 0 < Sparse.get 0 freq i
      · simp [hpos, ih]
      · simp [Nat.eq_zero_of_not_pos hpos, ih]
  refine Eq.trans ?_ (hfilter (List.range 256))
  refine congrArg List.sum (List.map_congr_left fun i hi => ?_)
  rw [nodeAt_leaves, if_pos (mem_presentSymbols.1 hi)]
  rfl

/-- The path length of what CGEN hands out on the tree that TBLD builds is at most 8 times the sum of the
frequencies. -/
theorem pathWeight_built_le {s : State} (hf : ∀ i, i < 256 → Sparse.get 0 s.freq i < 2 ^ s.cfg.lenW)
    {ls : List (Nat × BitString)} (hls : HandsOut s.built ls) :
    pathWeight s.built.node ls ≤ 8 * ((List.range 256).map fun i => Sparse.get 0 s.freq i).sum := by
  obtain ⟨-, -, hlen⟩ := arenaOk_builtTree hf
  obtain ⟨k, h, cost, L, deep, hroom⟩ := mergeAll_lowest_induction
    (P := fun nodes q k => ArenaOk (s.cfg.lenW + 8) s.freq nodes q k ∧ ∃ cost L deep,
      RoomLeft (queueFreq (plantLeaves s.freq (presentSymbols s.freq)) (presentSymbols s.freq)) nodes q cost L deep)
    (fun _ _ _ _ _ ha hb ⟨h, _, _, _, hr⟩ => ⟨h.merge ha.1 hb.1, hr.merge h ha hb⟩)
    (presentSymbols s.freq).length ⟨arenaOk_leaves hf, _, _, _, roomLeft_leaves s.freq⟩
  rw [queueFreq_leaves] at hroom
  change ArenaOk _ _ (builtTree s).1 (builtTree s).2 k at h
  change RoomLeft _ (builtTree s).1 (builtTree s).2 _ _ _ at hroom
  obtain ⟨hq, -⟩ | ⟨r, hq, hr, -⟩ := h.finished hlen
  · cases hls.eq_nil (by rw [State.root_built, hq]; rfl)
    exact Nat.zero_le _
  · have htotal := hroom.total
    have hbound := hroom.room
    rw [hq] at htotal hbound
    simp only [queueFreq, List.map_cons, List.map_nil, List.sum_cons, List.sum_nil, Nat.add_zero] at htotal hbound
    cases hls with
    | nothing => exact Nat.zero_le _
    | fallback =>
      have hweight : pathWeight s.built.node [(s.built.root.toNat, [false])] = (nodeAt (builtTree s).1 r).freq := by
        simp [pathWeight, hr]
      omega
    | @paths T _ _ htop hT =>
      have hcost := (pathWeight_leaves hroom.costs h.sums hT).1
      rw [htop, State.root_built, hr] at hcost
      rw [State.node_built, hcost]
      omega

/-- Settles O38: WPL is the weighted path length, and the frequencies add up to ILEN. -/
theorem huffmanStreamIsNoLongerThanTheInput : Obligations.HuffmanStreamIsNoLongerThanTheInput := by
  unfold Obligations.HuffmanStreamIsNoLongerThanTheInput
  intro s he hc hlen
  obtain ⟨ls, hls, hrun⟩ := runs_fcnt_tbld_cgen he hc hlen
  refine ⟨_, hrun, he, ?_⟩
  calc (handedOut s.counted.built ls).wpl = pathWeight s.counted.built.node ls := wpl_eq_pathWeight hls hc hlen
    _ ≤ 8 * ((List.range 256).map fun i => Sparse.get 0 s.counted.freq i).sum :=
      pathWeight_built_le (fun i _ => get_counted_lt s i) hls
    _ = 8 * s.ilen := by rw [sum_counted hc hlen]

end Sys2Proof.Machine

/-! PROOFS. The map that MAPB builds: its keys tell bit-strings apart, so it holds what the trie holds (R126, R127). -/

namespace Sys2Proof.Machine

open Sys2Proof.Claims

/-! ### The keys of MAP -/

theorem codeKey_snoc (c : BitString) (b : Bool) : codeKey (c ++ [b]) = 2 * codeKey c + b.toNat := by
  simp [codeKey]

theorem codeKey_pos (c : BitString) : 0 < codeKey c := by
  induction c using List.reverseRecOn with
  | nil => exact Nat.one_pos
  | append_singleton c b ih => rw [codeKey_snoc]; omega

/-- Different bit-strings have different keys (R44). -/
theorem codeKey_injective : Function.Injective codeKey := by
  intro c d h
  induction c using List.reverseRecOn generalizing d with
  | nil =>
    rcases List.eq_nil_or_concat' d with rfl | ⟨d, b, rfl⟩
    · rfl
    · have hpos := codeKey_pos d
      rw [codeKey_snoc, show codeKey [] = 1 from rfl] at h
      omega
  | append_singleton c a ih =>
    rcases List.eq_nil_or_concat' d with rfl | ⟨d, b, rfl⟩
    · have hpos := codeKey_pos c
      rw [codeKey_snoc, show codeKey [] = 1 from rfl] at h
      omega
    · rw [codeKey_snoc, codeKey_snoc] at h
      have ha := a.toNat_lt
      have hb := b.toNat_lt
      obtain rfl := ih (d := d) (by omega)
      have hbit : a = b := by cases a <;> cases b <;> simp at h ⊢
      rw [hbit]

theorem mapFind_mapSet (m : Sparse Symbol) (c d : BitString) (sym : Symbol) :
    mapFind (mapSet m c sym) d = if c = d then some sym else mapFind m d := by
  rw [mapFind, mapSet, Sparse.find?_put]
  simp only [codeKey_injective.eq_iff, eq_comm (a := d), mapFind]

/-- The indices a sparse array lists. -/
def Sparse.keys {α : Type} (m : Sparse α) : List Nat := m.map Prod.fst

theorem Sparse.mem_keys_put {α : Type} {m : Sparse α} {i k : Nat} {v : α} :
    k ∈ (m.put i v).keys ↔ k = i ∨ k ∈ m.keys := by
  induction m with
  | nil => simp [Sparse.put, Sparse.keys]
  | cons e m ih =>
    obtain ⟨j, u⟩ := e
    simp only [Sparse.keys] at ih
    simp only [Sparse.put]
    split_ifs with hlt heq
    · simp [Sparse.keys]
    · simp [Sparse.keys, heq]
    · simp only [Sparse.keys, List.map_cons, List.mem_cons, ih, or_left_comm]

theorem Sparse.nodup_keys {α : Type} {m : Sparse α} (h : Sparse.rising m = true) : m.keys.Nodup := by
  induction m with
  | nil => exact List.nodup_nil
  | cons e m ih =>
    obtain ⟨hlt, hr⟩ := (Sparse.rising_cons e.1 e.2 m).1 h
    refine List.nodup_cons.2 ⟨fun hmem => ?_, ih hr⟩
    obtain ⟨x, hx, heq⟩ := List.mem_map.1 hmem
    exact (hlt x hx).ne heq.symm

/-! ### MAPB -/

/-- The map after the Symbols below `n` (R126). -/
def mapBelow (tab : CodeTable) (n : Nat) : Sparse Symbol := (List.range n).foldl (mapAddSymbol tab) []

/-- The Codes of the Symbols below `n`, in the Symbols' order. -/
def codesBelow (tab : CodeTable) (n : Nat) : List BitString :=
  ((List.range n).filter fun i => decide (0 < tab.len i)).map tab.codeOf

theorem mapBelow_succ (tab : CodeTable) (n : Nat) : mapBelow tab (n + 1) = mapAddSymbol tab (mapBelow tab n) n := by
  simp [mapBelow, List.range_succ]

theorem mapFind_mapBelow (tab : CodeTable) (c : BitString) (sym : Symbol) :
    mapFind (mapBelow tab 256) c = some sym ↔ lastWithCode tab c sym := by
  refine eq_some_iff_lastWithCode (find := fun n => mapFind (mapBelow tab n) c) rfl (fun n _ => ?_) sym
  rw [mapBelow_succ, mapAddSymbol]
  by_cases hpos : 0 < tab.len n
  · rw [if_pos hpos, mapFind_mapSet]
    simp only [hpos, true_and]
  · simp only [hpos, false_and, if_false]

theorem mem_codesBelow_succ (tab : CodeTable) (n : Nat) (c : BitString) :
    c ∈ codesBelow tab (n + 1) ↔ (0 < tab.len n ∧ c = tab.codeOf n) ∨ c ∈ codesBelow tab n := by
  by_cases hpos : 0 < tab.len n <;> simp [codesBelow, List.range_succ, hpos, or_comm]

/-- The map lists the keys of the Codes, each once (R126). -/
theorem toFinset_keys_mapBelow (tab : CodeTable) (n : Nat) :
    (mapBelow tab n).keys.toFinset = (codesBelow tab n).toFinset.image codeKey := by
  induction n with
  | zero => rfl
  | succ n ih =>
    ext k
    have hk := Finset.ext_iff.1 ih k
    simp only [List.mem_toFinset, Finset.mem_image] at hk ⊢
    simp only [mapBelow_succ, mem_codesBelow_succ]
    by_cases hpos : 0 < tab.len n
    · rw [mapAddSymbol, if_pos hpos, mapSet, Sparse.mem_keys_put, hk]
      simp [hpos, or_and_right, exists_or, eq_comm]
    · rw [mapAddSymbol, if_neg hpos, hk]
      simp [hpos]

theorem length_mapBelow (tab : CodeTable) : (mapBelow tab 256).length = (codesBelow tab 256).dedup.length := by
  have hrising := (mapAddSymbols_ok tab (List.range 256) (m := []) rfl).1
  calc (mapBelow tab 256).length = (mapBelow tab 256).keys.length := (List.length_map _).symm
    _ = (mapBelow tab 256).keys.toFinset.card := (List.toFinset_card_of_nodup (Sparse.nodup_keys hrising)).symm
    _ = (codesBelow tab 256).toFinset.card := by
      rw [toFinset_keys_mapBelow, Finset.card_image_of_injective _ codeKey_injective]
    _ = (codesBelow tab 256).dedup.length := List.card_toFinset _

theorem toNat_length_mapBelow (tab : CodeTable) :
    (BitVec.ofNat 9 (mapBelow tab 256).length).toNat = (codesBelow tab 256).dedup.length := by
  have hle : (mapBelow tab 256).length ≤ 256 := by
    simpa [mapBelow] using (mapAddSymbols_ok tab (List.range 256) (m := []) rfl).2
  rw [BitVec.toNat_ofNat, Nat.mod_eq_of_lt (by omega), length_mapBelow]

/-- The state TRIE leaves (R121). -/
def State.trieBuilt (s : State) : State :=
  { s with trie := (trieBelow s.table 256).nodes, tcnt := BitVec.ofNat 16 (trieBelow s.table 256).next }.retire

/-- The state MAPB leaves (R126). -/
def State.mapBuilt (s : State) : State :=
  { s with map := mapBelow s.table 256, mcnt := BitVec.ofNat 9 (mapBelow s.table 256).length }.retire

@[simp] theorem State.trie_trieBuilt (s : State) : s.trieBuilt.trie = (trieBelow s.table 256).nodes := rfl

@[simp] theorem State.map_mapBuilt (s : State) : s.mapBuilt.map = mapBelow s.table 256 := by
  rw [State.mapBuilt, State.map_retire]

@[simp] theorem State.mcnt_mapBuilt (s : State) :
    s.mapBuilt.mcnt = BitVec.ofNat 9 (mapBelow s.table 256).length := by
  rw [State.mapBuilt, State.mcnt_retire]

theorem exec_trie {s : State} (he : s.err = 0#8) : exec .trie s = .next s.trieBuilt :=
  command_ok (body := buildTrie) he rfl

theorem exec_mapb {s : State} (he : s.err = 0#8) : exec .mapb s = .next s.mapBuilt :=
  command_ok (body := buildMap) he rfl

/-- Settles O43: the map after all 256 Symbols, each written over the earlier ones with its Code. -/
theorem mapHoldsTheCodes : Obligations.MapHoldsTheCodes := by
  unfold Obligations.MapHoldsTheCodes
  intro s he
  refine ⟨s.mapBuilt, exec_mapb he, ?_⟩
  rw [State.map_mapBuilt, State.mcnt_mapBuilt]
  exact ⟨by rw [State.mapBuilt, State.retire], mapFind_mapBelow s.table, toNat_length_mapBelow s.table⟩

theorem trieFind_eq_mapFind (tab : CodeTable) :
    trieFind (trieBelow tab 256).nodes = mapFind (mapBelow tab 256) := by
  funext c
  exact Option.ext fun sym => (trieFind_trieBelow tab c sym).trans (mapFind_mapBelow tab c sym).symm

/-- Settles O44: both find the greatest Symbol with the Code. -/
theorem trieAndMapAgree : Obligations.TrieAndMapAgree := by
  unfold Obligations.TrieAndMapAgree
  intro s t u he ht hu c
  cases (exec_trie he).symm.trans ht
  cases (exec_mapb he).symm.trans hu
  rw [State.trie_trieBuilt, State.map_mapBuilt, trieFind_eq_mapFind]

end Sys2Proof.Machine

/-! PROOFS. The decode loop: both automata emit what a decoder emits that looks candidates up, and such a decoder reads
the stream word by word (R124, R128, R129). With it DECT and DECM, each alone and against each other (R123, R131). -/

namespace Sys2Proof.Machine

open Sys2Proof.Claims

/-! ### One bit of the loop -/

section Loop

variable {σ : Type} {next : σ → Bool → Advance σ} {start st : σ} {b : Bool} {bits : BitString} {need cnt : Nat}

/-- When no Symbol is asked for any more, the rest of the stream is not looked at. -/
theorem decodeStream_zero (next : σ → Bool → Advance σ) (start : σ) (bits : BitString) (st : σ) (cnt : Nat) :
    decodeStream next start bits st 0 cnt = .ok [] := by
  cases bits <;> rfl

theorem decodeStream_nil (hneed : need ≠ 0) : decodeStream next start [] st need cnt = .error cnt := by
  rw [decodeStream, if_neg hneed]

theorem decodeStream_stuck (hneed : need ≠ 0) (h : next st b = .stuck) :
    decodeStream next start (b :: bits) st need cnt = .error cnt := by
  simp only [decodeStream, if_neg hneed, h]

theorem decodeStream_more (hneed : need ≠ 0) {st' : σ} (h : next st b = .more st') :
    decodeStream next start (b :: bits) st need cnt = decodeStream next start bits st' need cnt := by
  simp only [decodeStream, if_neg hneed, h]

theorem decodeStream_emit {sym : Symbol} (h : next st b = .emit sym) :
    decodeStream next start (b :: bits) st (need + 1) cnt =
      (decodeStream next start bits start need (cnt + 1)).map (sym :: ·) := by
  simp only [decodeStream, if_neg (Nat.succ_ne_zero need), h, Nat.add_sub_cancel]
  cases decodeStream next start bits start need (cnt + 1) <;> rfl

end Loop

/-! ### Looking candidates up -/

/-- The automaton of R128 over any way to look a candidate up. -/
def findStep (find : BitString → Option Symbol) (cand : BitString) (b : Bool) : Advance BitString :=
  match find (cand ++ [b]) with
  | some sym => .emit sym
  | none => .more (cand ++ [b])

/-- The decode loop of that automaton, from the candidate `cand` on. -/
def decodeFind (find : BitString → Option Symbol) (bits cand : BitString) (need cnt : Nat) :
    Except Nat (List Symbol) :=
  decodeStream (findStep find) [] bits cand need cnt

theorem mapLoop_eq (s : State) (bits : BitString) (need : Nat) :
    mapLoop s bits need = decodeFind (mapFind s.map) bits [] need 0 := rfl

section Find

variable {find : BitString → Option Symbol} {cand bits : BitString} {b : Bool} {need cnt : Nat}

theorem findStep_some {sym : Symbol} (h : find (cand ++ [b]) = some sym) : findStep find cand b = .emit sym := by
  simp only [findStep, h]

theorem findStep_none (h : find (cand ++ [b]) = none) : findStep find cand b = .more (cand ++ [b]) := by
  simp only [findStep, h]

/-- A candidate that no continuation makes a Code uses up the stream (R128, R195). -/
theorem decodeFind_hopeless (h : ∀ k, 0 < k → k ≤ bits.length → find (cand ++ bits.take k) = none)
    (hneed : need ≠ 0) : decodeFind find bits cand need cnt = .error cnt := by
  induction bits generalizing cand with
  | nil => exact decodeStream_nil hneed
  | cons b bits ih =>
    have hb : find (cand ++ [b]) = none := by simpa using h 1 Nat.one_pos (by simp)
    rw [decodeFind, decodeStream_more hneed (findStep_none hb)]
    refine ih fun k _ hk => ?_
    rw [List.append_assoc]
    exact h (k + 1) k.succ_pos (Nat.succ_le_succ hk)

/-- A word of the stream, whatever follows it, is one Symbol. -/
theorem decodeFind_word {c : BitString} {sym : Symbol} (hne : c ≠ []) (hc : find (cand ++ c) = some sym)
    (hpre : ∀ k, 0 < k → k < c.length → find (cand ++ c.take k) = none) :
    decodeFind find (c ++ bits) cand (need + 1) cnt = (decodeFind find bits [] need (cnt + 1)).map (sym :: ·) := by
  induction c generalizing cand with
  | nil => exact absurd rfl hne
  | cons b c ih =>
    cases c with
    | nil => exact decodeStream_emit (findStep_some hc)
    | cons d c =>
      have hb : find (cand ++ [b]) = none := by simpa using hpre 1 Nat.one_pos (by simp)
      rw [decodeFind, List.cons_append, decodeStream_more (Nat.succ_ne_zero need) (findStep_none hb)]
      refine ih (List.cons_ne_nil d c) (by rwa [List.append_assoc]) fun k _ hk => ?_
      rw [List.append_assoc]
      exact hpre (k + 1) k.succ_pos (Nat.succ_lt_succ hk)

/-- The words that a stream begins with are the first Symbols out (R124, R129). -/
theorem decodeFind_words {cs : List BitString} {out : List Symbol} (h : List.Forall₂ (isWord find) cs out) :
    decodeFind find (cs.flatten ++ bits) [] (out.length + need) cnt =
      (decodeFind find bits [] need (cnt + out.length)).map (out ++ ·) := by
  induction h generalizing cnt with
  | nil => cases hrest : decodeFind find bits [] need cnt <;> simp [hrest, Except.map]
  | @cons c sym cs out hc _ ih =>
    obtain ⟨hne, hfind, hpre⟩ := hc
    have hcount : (sym :: out).length + need = out.length + need + 1 := by rw [List.length_cons]; omega
    rw [List.flatten_cons, List.append_assoc, hcount, decodeFind_word hne hfind hpre, ih, List.length_cons,
      show cnt + 1 + out.length = cnt + (out.length + 1) by omega]
    cases decodeFind find bits [] need (cnt + (out.length + 1)) <;> rfl

theorem decodeFind_all_words {cs : List BitString} {out : List Symbol} (h : List.Forall₂ (isWord find) cs out) :
    decodeFind find (cs.flatten ++ bits) [] out.length cnt = .ok out := by
  have hall := decodeFind_words (bits := bits) (need := 0) (cnt := cnt) h
  rw [decodeFind.eq_def find bits, decodeStream_zero] at hall
  simpa [Except.map] using hall

end Find

/-! ### The walk in the trie -/

section Walk

variable {t : Sparse TrieNode} {cand : BitString} {cur n : Nat} {b : Bool}

theorem trieFollow_append (t : Sparse TrieNode) (n : Nat) (p r : BitString) :
    trieFollow t n (p ++ r) = (trieFollow t n p).bind fun m => trieFollow t m r := by
  induction p generalizing n with
  | nil => rfl
  | cons b p ih => simp only [List.cons_append, trieFollow_cons, ih, Option.bind_assoc]

theorem trieStep_of_edge_none (h : trieEdge t cur b = none) : trieStep t cur b = .stuck := by
  unfold trieEdge at h
  split_ifs at h with hnil
  simp [trieStep, hnil]

theorem trieStep_of_edge (h : trieEdge t cur b = some n) :
    trieStep t cur b = if (trieAt t n).leaf then .emit (trieAt t n).sym else .more n := by
  unfold trieEdge at h
  split_ifs at h with hnil
  cases h
  simp [trieStep, hnil]

/-- The trie walk is the search for a Code in disguise: the entry it stands at is the candidate's, and where it cannot go
on no Code begins with the candidate (R127, R131). -/
theorem decodeStream_trieStep (hcur : trieFollow t 0 cand = some cur) (bits : BitString) (need cnt : Nat) :
    decodeStream (trieStep t) 0 bits cur need cnt = decodeFind (trieFind t) bits cand need cnt := by
  have hedge : ∀ {cand cur}, trieFollow t 0 cand = some cur → ∀ b r,
      trieFollow t 0 (cand ++ b :: r) = (trieEdge t cur b).bind fun m => trieFollow t m r := fun hcur b r => by
    rw [trieFollow_append, hcur, Option.bind_some, trieFollow_cons]
  induction bits generalizing cand cur need cnt with
  | nil => rfl
  | cons b bits ih =>
    obtain _ | need := need
    · rw [decodeFind, decodeStream_zero, decodeStream_zero]
    cases hb : trieEdge t cur b with
    | none =>
      rw [decodeStream_stuck need.succ_ne_zero (trieStep_of_edge_none hb), decodeFind_hopeless _ need.succ_ne_zero]
      intro k hk _
      obtain ⟨k, rfl⟩ := Nat.exists_eq_succ_of_ne_zero hk.ne'
      exact trieFind_eq_none (by rw [List.take_succ_cons, hedge hcur, hb, Option.bind_none])
    | some n =>
      have hn : trieFollow t 0 (cand ++ [b]) = some n := by rw [hedge hcur, hb]; rfl
      have hfind := trieFind_eq_of_follow hn
      have hstep := trieStep_of_edge hb
      rw [decodeFind]
      cases hleaf : (trieAt t n).leaf with
      | true =>
        simp only [hleaf, if_true] at hfind hstep
        rw [decodeStream_emit hstep, decodeStream_emit (findStep_some hfind), ih (cand := []) rfl]
        rfl
      | false =>
        simp only [hleaf, Bool.false_eq_true, if_false] at hfind hstep
        rw [decodeStream_more need.succ_ne_zero hstep, decodeStream_more need.succ_ne_zero (findStep_none hfind), ih hn]
        rfl

end Walk

theorem trieLoop_eq (s : State) (bits : BitString) (need : Nat) :
    trieLoop s bits need = decodeFind (trieFind s.trie) bits [] need 0 :=
  decodeStream_trieStep rfl bits need 0

/-! ### DECT and DECM alone -/

section Decode

variable {loop : State → BitString → Nat → Except Nat (List Symbol)} {s : State}

/-- The four ways in which DECT and DECM end before their loop (R123). -/
theorem decodeWith_preChecks (loop : State → BitString → Nat → Except Nat (List Symbol)) (he : s.err = 0#8) :
    (s.nsym = 0 → outputCommand (decodeWith loop) s = .next { s with olen := 0, ccnt := s.ccnt + 1#32 }) ∧
    (s.nsym ≠ 0 → s.cfg.bufBytes < s.ilen →
      outputCommand (decodeWith loop) s = .next (outputFaulted s 2#8 s.ilen)) ∧
    (s.nsym ≠ 0 → s.ilen ≤ s.cfg.bufBytes → 8 * s.ilen < s.nsym →
      outputCommand (decodeWith loop) s = .next (outputFaulted s 3#8 s.nsym)) ∧
    (s.nsym ≠ 0 → s.ilen ≤ s.cfg.bufBytes → s.nsym ≤ 8 * s.ilen → s.cfg.bufBytes < s.nsym →
      outputCommand (decodeWith loop) s = .next (outputFaulted s 4#8 s.nsym)) := by
  refine ⟨fun hzero => ?_, fun hpos hlen => ?_, fun hpos hlen hformat => ?_, fun hpos hlen hformat hovf => ?_⟩
  · exact outputCommand_ok he (t := { s with olen := 0 }) (by rw [decodeWith, if_pos hzero])
  · exact outputCommand_error he (r := ⟨.len, s.ilen⟩) (by rw [decodeWith, if_neg hpos, if_pos hlen])
  · exact outputCommand_error he (r := ⟨.format, s.nsym⟩) (by
      rw [decodeWith, if_neg hpos, if_neg hlen.not_gt, if_pos hformat])
  · exact outputCommand_error he (r := ⟨.ovf, s.nsym⟩) (by
      rw [decodeWith, if_neg hpos, if_neg hlen.not_gt, if_neg hformat.not_gt, if_pos hovf])

/-- The state a decode command leaves that emitted `out`. -/
def State.emitted (s : State) (out : List Symbol) : State :=
  { s with obuf := s.obuf.writeBytes 0 out, olen := s.nsym }.retire

/-- Past the pre-checks the loop decides (R123, R124). -/
theorem decodeWith_emits (h : decodable s) {out : List Symbol}
    (hloop : loop s (streamBits s.ibuf s.ilen) s.nsym = .ok out) :
    outputCommand (decodeWith loop) s = .next (s.emitted out) := by
  obtain ⟨he, hc, hpos, hlen, hformat, hovf⟩ := h
  exact outputCommand_ok he (by simp only [decodeWith, if_neg hpos.ne', if_neg hlen.not_gt, if_neg hformat.not_gt,
    if_neg hovf.not_gt, hloop, trunc_of_lt (hovf.trans_lt (Config.bufBytes_lt hc))])

theorem decodeWith_walkFails (h : decodable s) {cnt : Nat}
    (hloop : loop s (streamBits s.ibuf s.ilen) s.nsym = .error cnt) :
    outputCommand (decodeWith loop) s = .next (outputFaulted s 6#8 cnt) := by
  obtain ⟨he, -, hpos, hlen, hformat, hovf⟩ := h
  exact outputCommand_error he (r := ⟨.walk, cnt⟩) (by simp only [decodeWith, if_neg hpos.ne', if_neg hlen.not_gt,
    if_neg hformat.not_gt, if_neg hovf.not_gt, hloop])

/-- A loop that looks Codes up with `find` and meets a stream of words: the outcome is `State.emitted`. -/
theorem decodeWith_words {find : BitString → Option Symbol}
    (hloop : ∀ bits need, loop s bits need = decodeFind find bits [] need 0) {cs : List BitString} {out : List Symbol}
    {rest : BitString} (h : decodable s) (hcs : List.Forall₂ (isWord find) cs out) (hlen : out.length = s.nsym)
    (hbits : streamBits s.ibuf s.ilen = cs.flatten ++ rest) :
    outputCommand (decodeWith loop) s = .next (s.emitted out) :=
  decodeWith_emits h (by rw [hloop, hbits, ← hlen, decodeFind_all_words hcs])

/-- OBUF after a decode command: the Symbols, then what stood there (R124, R129). -/
theorem State.read_emitted (s : State) (out : List Symbol) :
    (∀ i, i < out.length → out[i]? = some ((s.emitted out).obuf.read i)) ∧
      ∀ i, out.length ≤ i → (s.emitted out).obuf.read i = s.obuf.read i := by
  constructor <;> intro i hi
  · simp [State.emitted, Memory.read_writeBytes, List.getElem?_eq_getElem hi]
  · simp [State.emitted, Memory.read_writeBytes, List.getElem?_eq_none hi]

end Decode

/-- Settles O45: the pre-checks stand before the loop, which is all that DECT and DECM differ in. -/
theorem decodePreChecksInOrder : Obligations.DecodePreChecksInOrder := by
  unfold Obligations.DecodePreChecksInOrder
  intro s i he hi
  simp only [List.mem_cons, List.not_mem_nil, or_false] at hi
  rcases hi with rfl | rfl
  · exact decodeWith_preChecks trieLoop he
  · exact decodeWith_preChecks mapLoop he

/-- Settles O46: the trie walk reads the stream word by word. -/
theorem dectEmitsTheSymbols : Obligations.DectEmitsTheSymbols := by
  unfold Obligations.DectEmitsTheSymbols
  intro s cs out rest h hcs hlen hbits
  obtain ⟨hsyms, hrest⟩ := s.read_emitted out
  rw [hlen] at hsyms hrest
  exact ⟨_, decodeWith_words (trieLoop_eq s) h hcs hlen hbits, rfl, hsyms, hrest, rfl⟩

/-- Settles O47: the search in the map reads the stream word by word. -/
theorem decmEmitsTheSymbols : Obligations.DecmEmitsTheSymbols := by
  unfold Obligations.DecmEmitsTheSymbols
  intro s cs out rest h hcs hlen hbits
  obtain ⟨hsyms, hrest⟩ := s.read_emitted out
  rw [hlen] at hsyms hrest
  exact ⟨_, decodeWith_words (mapLoop_eq s) h hcs hlen hbits, rfl, hsyms, hrest, rfl⟩

end Sys2Proof.Machine

/-! PROOFS. What the commands do not look at: an update of fields that a command neither reads nor writes may be made
before it or after it. So the decoders do not depend on the encoder's tree (R120), and the two are equivalent (R131). -/

namespace Sys2Proof.Machine

open Sys2Proof.Claims

/-- An update of fields that retiring and taking a fault leave alone. -/
structure Aside (u : State → State) : Prop where
  err : ∀ s, (u s).err = s.err
  retire : ∀ s, (u s).retire = u s.retire
  raise : ∀ s r, (u s).raise r = u (s.raise r)
  loseOutput : ∀ s, (u s).loseOutput = u s.loseOutput

/-- What DECT and DECM write. -/
def State.putOutput (s : State) (m : Memory) (n : Nat) : State := { s with obuf := m, olen := n }

/-- An update of fields that DECT and DECM leave alone, but for what their loops look at. -/
structure DecodeAside (u : State → State) : Prop extends Aside u where
  input : ∀ s, (u s).nsym = s.nsym ∧ (u s).ilen = s.ilen ∧ (u s).ibuf = s.ibuf ∧ (u s).cfg = s.cfg
  output : ∀ s m n, (u s).obuf = s.obuf ∧ (u s).putOutput m n = u (s.putOutput m n)

/-- `decodeWith` with its writes named. -/
theorem decodeWith_eq (loop : State → BitString → Nat → Except Nat (List Symbol)) (s : State) : decodeWith loop s =
    if s.nsym = 0 then .ok (s.putOutput s.obuf 0)
    else if s.cfg.bufBytes < s.ilen then .error ⟨.len, s.ilen⟩
    else if 8 * s.ilen < s.nsym then .error ⟨.format, s.nsym⟩
    else if s.cfg.bufBytes < s.nsym then .error ⟨.ovf, s.nsym⟩
    else ((loop s (streamBits s.ibuf s.ilen) s.nsym).mapError fun cnt => ⟨.walk, cnt⟩).map fun out =>
      s.putOutput (s.obuf.writeBytes 0 out) (trunc s.cfg.lenW s.nsym) := by
  unfold decodeWith
  cases loop s (streamBits s.ibuf s.ilen) s.nsym <;> rfl

section Aside

variable {u : State → State} {s t : State} {body body' : State → Except Raised State}

theorem Aside.command (hu : Aside u) (hb : body' (u s) = (body s).map u) (h : command body s = .next t) :
    command body' (u s) = .next (u t) := by
  obtain ⟨he, rfl⟩ | ⟨he, v, hv, rfl⟩ | ⟨he, r, hr, rfl⟩ := command_cases h
  · exact unlessStopped_stopped (by rwa [hu.err])
  · rw [command_ok ((hu.err s).trans he) (by rw [hb, hv]; rfl), hu.retire]
  · rw [command_error ((hu.err s).trans he) (r := r) (by rw [hb, hr]; rfl), hu.raise]

theorem Aside.outputCommand (hu : Aside u) (hb : body' (u s) = (body s).map u) (h : outputCommand body s = .next t) :
    outputCommand body' (u s) = .next (u t) := by
  obtain ⟨he, rfl⟩ | ⟨he, v, hv, rfl⟩ | ⟨he, r, hr, rfl⟩ := outputCommand_cases h
  · exact unlessStopped_stopped (by rwa [hu.err])
  · rw [outputCommand_ok ((hu.err s).trans he) (by rw [hb, hv]; rfl), hu.retire]
  · rw [outputCommand_error ((hu.err s).trans he) (r := r) (by rw [hb, hr]; rfl), hu.loseOutput, hu.raise]

/-- Where the loops emit the same Symbols, the two decode commands do the same (R131). -/
theorem DecodeAside.decode (hu : DecodeAside u) {loop loop' : State → BitString → Nat → Except Nat (List Symbol)}
    (hloop : ∀ bits need, loop' (u s) bits need = loop s bits need)
    (h : Machine.outputCommand (decodeWith loop) s = .next t) :
    Machine.outputCommand (decodeWith loop') (u s) = .next (u t) := by
  refine hu.toAside.outputCommand ?_ h
  obtain ⟨hnsym, hilen, hibuf, hcfg⟩ := hu.input s
  have hout : ∀ m n, (u s).putOutput m n = u (s.putOutput m n) := fun m n => (hu.output s m n).2
  simp only [decodeWith_eq, hnsym, hilen, hibuf, hcfg, hloop, (hu.output s s.obuf 0).1, hout, apply_ite (Except.map u)]
  cases loop s (streamBits s.ibuf s.ilen) s.nsym <;> rfl

end Aside

/-- Other contents of FREQ, NODE and ROOT. -/
def State.withEncoderTree (f : Sparse Nat) (n : Sparse TreeNode) (r : BitVec 9) (s : State) : State :=
  { s with freq := f, node := n, root := r }

theorem decodeAside_withEncoderTree (f : Sparse Nat) (n : Sparse TreeNode) (r : BitVec 9) :
    DecodeAside (State.withEncoderTree f n r) :=
  { err := fun _ => rfl, retire := fun _ => rfl, raise := fun _ _ => rfl, loseOutput := fun _ => rfl,
    input := fun _ => ⟨rfl, rfl, rfl, rfl⟩, output := fun _ _ _ => ⟨rfl, rfl⟩ }

/-- Settles O49: the tables, the loops and what stands around them are the same with other contents of FREQ, NODE and
ROOT. -/
theorem decodersNeverReadTheEncoderTree : Obligations.DecodersNeverReadTheEncoderTree := by
  unfold Obligations.DecodersNeverReadTheEncoderTree
  intro i s t f n r hi ht
  have hu := decodeAside_withEncoderTree f n r
  simp only [List.mem_cons, List.not_mem_nil, or_false] at hi
  rcases hi with rfl | rfl | rfl | rfl
  · refine hu.command (body := buildTrie) (body' := buildTrie) ?_ ht
    simp only [buildTrie, State.withEncoderTree, Except.map]
  · exact hu.decode (loop := trieLoop) (fun _ _ => rfl) ht
  · refine hu.command (body := buildMap) (body' := buildMap) ?_ ht
    simp only [buildMap, State.withEncoderTree, Except.map]
  · exact hu.decode (loop := mapLoop) (fun _ _ => rfl) ht

/-- Other contents of TRIE and MAP, and of their counters. -/
def State.withDecoders (t : Sparse TrieNode) (tc : BitVec 16) (m : Sparse Symbol) (mc : BitVec 9) (s : State) : State :=
  { s with trie := t, tcnt := tc, map := m, mcnt := mc }

theorem decodeAside_withDecoders (t : Sparse TrieNode) (tc : BitVec 16) (m : Sparse Symbol) (mc : BitVec 9) :
    DecodeAside (State.withDecoders t tc m mc) :=
  { err := fun _ => rfl, retire := fun _ => rfl, raise := fun _ _ => rfl, loseOutput := fun _ => rfl,
    input := fun _ => ⟨rfl, rfl, rfl, rfl⟩, output := fun _ _ _ => ⟨rfl, rfl⟩ }

/-- MAPB leaves the state that TRIE leaves, but for TRIE, MAP and their counters. -/
theorem State.mapBuilt_eq (s : State) :
    s.mapBuilt = s.trieBuilt.withDecoders s.trie s.tcnt s.mapBuilt.map s.mapBuilt.mcnt := by
  rw [State.map_mapBuilt, State.mcnt_mapBuilt, State.mapBuilt, State.trieBuilt, State.withDecoders, State.retire,
    State.retire]

/-- DECM after MAPB does what DECT does after TRIE (R131). -/
theorem exec_decm_mapBuilt {s t : State} (h : exec .dect s.trieBuilt = .next t) :
    exec .decm s.mapBuilt = .next (t.withDecoders s.trie s.tcnt s.mapBuilt.map s.mapBuilt.mcnt) := by
  have hu := decodeAside_withDecoders s.trie s.tcnt s.mapBuilt.map s.mapBuilt.mcnt
  have hrun := hu.decode (loop := trieLoop) (loop' := mapLoop) (fun bits need => by
    rw [mapLoop_eq, trieLoop_eq, State.withDecoders, State.trie_trieBuilt, State.map_mapBuilt, trieFind_eq_mapFind]) h
  rwa [← State.mapBuilt_eq] at hrun

/-- Settles O50: the two commands answer states that differ in TRIE, MAP and their counters only. -/
theorem decodersAreEquivalent : Obligations.DecodersAreEquivalent := by
  unfold Obligations.DecodersAreEquivalent
  intro s he
  obtain ⟨t, ht⟩ := exec_total (i := .dect) (by decide) s.trieBuilt
  exact ⟨t, t.withDecoders s.trie s.tcnt s.mapBuilt.map s.mapBuilt.mcnt, ⟨s.trieBuilt, exec_trie he, t, ht, rfl⟩,
    ⟨s.mapBuilt, exec_mapb he, _, exec_decm_mapBuilt ht, rfl⟩, rfl, rfl, rfl, fun _ _ => rfl⟩

end Sys2Proof.Machine

/-! PROOFS. The round trip: a stream of Codes that are no beginnings of each other decodes to the Symbols they were taken
from, by either decoder (R132, R167). -/

namespace Sys2Proof.Machine

open Sys2Proof.Claims

/-! ### A stream of Codes -/

/-- No Symbol's Code is the beginning of another's (R109 b). -/
def CodeTable.PrefixFree (tab : CodeTable) : Prop :=
  ∀ b c : Symbol, 0 < tab.len b.toNat → 0 < tab.len c.toNat → tab.codeOf b.toNat <+: tab.codeOf c.toNat → b = c

/-- The first `n` bytes of `m` begin with the Codes of `bs`, in a state whose table and count fit them (R89). -/
structure Carries (s : State) (m : Memory) (n : Nat) (bs : List Byte) : Prop where
  err : s.err = 0#8
  config : s.cfg.wellFormed = true
  free : s.table.PrefixFree
  coded : ∀ b ∈ bs, 0 < s.table.len b.toNat
  count : s.nsym = bs.length
  fits : bs.length ≤ s.cfg.bufBytes ∧ n ≤ s.cfg.bufBytes
  stream : codeBits s.table bs <+: streamBits m n

section Carries

variable {tab : CodeTable} {s : State} {bs : List Byte}

/-- A decoder emits at every Code of a table none of whose Codes begins another (R125). -/
theorem CodeTable.PrefixFree.isWord_codeOf {find : BitString → Option Symbol} (h : tab.PrefixFree)
    (hfind : ∀ c sym, find c = some sym ↔ lastWithCode tab c sym) {b : Symbol} (hb : 0 < tab.len b.toNat) :
    isWord find (tab.codeOf b.toNat) b := by
  have hlen := tab.length_codeOf b.toNat
  refine ⟨fun hnil => ?_, (hfind _ _).2 ⟨hb, rfl, fun c hc heq => ?_⟩, fun k _ hk => ?_⟩
  · rw [hnil, List.length_nil] at hlen
    omega
  · rw [h c b hc hb (heq ▸ List.prefix_rfl)]
  · by_contra hsome
    obtain ⟨c, hc⟩ := Option.ne_none_iff_exists'.1 hsome
    obtain ⟨hpos, hcode, -⟩ := (hfind _ _).1 hc
    obtain rfl := h c b hpos hb (hcode ▸ List.take_prefix _ _)
    have hshort := congrArg List.length hcode
    rw [List.length_take] at hshort
    omega

theorem length_le_codeBits (h : ∀ b ∈ bs, 0 < tab.len b.toNat) : bs.length ≤ (codeBits tab bs).length := by
  rw [length_codeBits, totalBits]
  have hsum := List.length_le_sum_of_one_le (bs.map fun b => tab.len b.toNat) fun n hn => by
    obtain ⟨b, hb, rfl⟩ := List.mem_map.1 hn
    exact h b hb
  rwa [List.length_map] at hsum

theorem length_streamBits (m : Memory) (n : Nat) : (streamBits m n).length = 8 * n := by
  simp [streamBits]

theorem Carries.decodable (h : Carries s s.ibuf s.ilen bs) (hne : bs ≠ []) : decodable s := by
  obtain ⟨hbs, hilen⟩ := h.fits
  have hlong := (length_le_codeBits h.coded).trans h.stream.length_le
  rw [length_streamBits] at hlong
  have hpos := List.length_pos_iff.2 hne
  exact ⟨h.err, h.config, h.count ▸ hpos, hilen, h.count ▸ hlong, h.count ▸ hbs⟩

/-- A decode command over such a stream emits the Symbols (R132). -/
theorem Carries.decode (h : Carries s s.ibuf s.ilen bs) {find : BitString → Option Symbol}
    {loop : State → BitString → Nat → Except Nat (List Symbol)}
    (hloop : ∀ bits need, loop s bits need = decodeFind find bits [] need 0)
    (hfind : ∀ c sym, find c = some sym ↔ lastWithCode s.table c sym) :
    outputCommand (decodeWith loop) s = .next (s.emitted bs) := by
  by_cases hnil : bs = []
  · subst hnil
    have hzero : s.nsym = 0 := h.count
    rw [(decodeWith_preChecks loop h.err).1 hzero, State.emitted, hzero]
    rfl
  · obtain ⟨rest, hrest⟩ := h.stream
    rw [codeBits, List.flatMap_def] at hrest
    refine decodeWith_words hloop (h.decodable hnil) ?_ h.count.symm hrest.symm
    rw [List.forall₂_map_left_iff, List.forall₂_same]
    exact fun b hb => h.free.isWord_codeOf hfind (h.coded b hb)

theorem Carries.dect (h : Carries s s.ibuf s.ilen bs) :
    exec .dect s.trieBuilt = .next (s.trieBuilt.emitted bs) := by
  have h' : Carries s.trieBuilt s.trieBuilt.ibuf s.trieBuilt.ilen bs := { h with }
  refine h'.decode (trieLoop_eq s.trieBuilt) fun c sym => ?_
  rw [State.trie_trieBuilt]
  exact trieFind_trieBelow s.table c sym

theorem Carries.decm (h : Carries s s.ibuf s.ilen bs) :
    exec .decm s.mapBuilt = .next (s.mapBuilt.emitted bs) := by
  have h' : Carries s.mapBuilt s.mapBuilt.ibuf s.mapBuilt.ilen bs := { h with }
  refine h'.decode (mapLoop_eq s.mapBuilt) fun c sym => ?_
  rw [State.map_mapBuilt]
  exact mapFind_mapBelow s.table c sym

/-- Either decoder on such a stream gives the Symbols (R132). -/
theorem Carries.runs_decoder (h : Carries s s.ibuf s.ilen bs) {d : List Instr}
    (hd : d ∈ [[Instr.trie, Instr.dect], [Instr.mapb, Instr.decm]]) :
    ∃ t, runs d s t ∧ t.err = 0#8 ∧ t.olen = bs.length ∧ t.obuf = s.obuf.writeBytes 0 bs := by
  simp only [List.mem_cons, List.not_mem_nil, or_false] at hd
  rcases hd with rfl | rfl
  · exact ⟨_, ⟨s.trieBuilt, exec_trie h.err, _, h.dect, rfl⟩, h.err, h.count, rfl⟩
  · exact ⟨_, ⟨s.mapBuilt, exec_mapb h.err, _, h.decm, rfl⟩, h.err, h.count, rfl⟩

end Carries

/-! ### Encoding -/

theorem runs_append {is js : List Instr} {s t u : State} (h : runs is s t) (h' : runs js t u) :
    runs (is ++ js) s u := by
  induction is generalizing s with
  | nil =>
    obtain rfl : s = t := h
    exact h'
  | cons i is ih =>
    obtain ⟨v, hv, hrest⟩ := h
    exact ⟨v, hv, ih hrest⟩

section Encode

variable {s : State} {ls : List (Nat × BitString)}

/-- What CGEN hands out is such a table (R109 b). -/
theorem HandsOut.prefixFree (h : s.TreeOk) (hls : HandsOut s ls) : (handedOut s ls).table.PrefixFree := by
  intro b c hb hc hpre
  have hcode : ∀ {i}, 0 < (handedOut s ls).table.len i → (i, (handedOut s ls).table.codeOf i) ∈ ls := fun hi =>
    (codeOf_handedOut_iff h (hls.codesOk h)).1 ⟨hi, rfl⟩
  exact BitVec.eq_of_toNat_eq (hls.eq_of_prefix h (hcode hb) (hcode hc) hpre)

variable (hls : HandsOut s.counted.built ls) (hc : s.cfg.wellFormed = true) (hlen : s.ilen ≤ s.cfg.bufBytes)

include hls hc hlen

/-- After FCNT, TBLD and CGEN every byte of the input has a Code (R109 a). -/
theorem len_pos_of_mem_input : ∀ b ∈ s.ibuf.bytes s.ilen, 0 < (handedOut s.counted.built ls).table.len b.toNat := by
  intro b hb
  have h := s.treeOk_counted_built
  rw [len_handedOut_pos_iff h (hls.codesOk h), hls.exists_mem_iff (fun i _ => get_counted_lt s i) b.isLt,
    get_counted hc hlen]
  exact List.count_pos_iff.2 hb

/-- The stream has at most 8 bits a byte of the input (R108, R111). -/
theorem length_codeBits_le :
    (codeBits (handedOut s.counted.built ls).table (s.ibuf.bytes s.ilen)).length ≤ 8 * s.ilen := by
  rw [length_codeBits, totalBits, ← pathWeight_eq_codeBits hls hc hlen, ← sum_counted hc hlen]
  exact pathWeight_built_le (fun i _ => get_counted_lt s i) hls

end Encode

/-- The packed stream begins with the bits packed (R89). -/
theorem prefix_streamBits_packBits (m : Memory) (S : BitString) :
    S <+: streamBits (m.writeBytes 0 (packBits S 0#8 0)) (ceilDiv S.length 8) := by
  have hout : (packBits S 0#8 0).length = ceilDiv S.length 8 := by rw [length_packBits S 0#8 (by omega), Nat.zero_add]
  have hround : S.length ≤ 8 * ceilDiv S.length 8 := by
    unfold ceilDiv
    omega
  refine List.prefix_iff_getElem.2 ⟨hround.trans_eq (length_streamBits _ _).symm, fun p hp => ?_⟩
  simp only [streamBits, List.getElem_map, List.getElem_range]
  rw [streamBit_writeBytes m (by omega), byteBit_packBits S 0#8 (by omega), unpacked, if_neg (by omega), Nat.sub_zero,
    List.getD_eq_getElem _ _ hp]

/-- The state PACK leaves where nothing is at fault (R110). -/
def State.packed (s : State) : State :=
  { s with
    obuf := s.obuf.writeBytes 0 (packBits (codeBits s.table (s.ibuf.bytes s.ilen)) 0#8 0),
    olen := ceilDiv (codeBits s.table (s.ibuf.bytes s.ilen)).length 8 }.retire

/-- Encoding an input in range completes, and the Codes of the input stand in OBUF (R89, R132). -/
theorem exists_runs_encode {s : State} (he : s.err = 0#8) (hc : s.cfg.wellFormed = true)
    (hlen : s.ilen ≤ s.cfg.bufBytes) :
    ∃ t : State, runs [.fcnt, .tbld, .cgen, .pack] s t ∧ Carries t t.obuf t.olen (s.ibuf.bytes s.ilen) ∧
      t.ilen = s.ilen := by
  obtain ⟨ls, hls, hrun⟩ := runs_fcnt_tbld_cgen he hc hlen
  have hcoded := len_pos_of_mem_input hls hc hlen
  have hfit : ceilDiv (codeBits (handedOut s.counted.built ls).table (s.ibuf.bytes s.ilen)).length 8 ≤
      s.cfg.bufBytes := by
    have hshort := length_codeBits_le hls hc hlen
    unfold ceilDiv
    omega
  have hpack : exec .pack (s.counted.built.coded ls) = .next (s.counted.built.coded ls).packed :=
    outputCommand_ok he (packBuffer_ok hc hlen hcoded hfit)
  refine ⟨_, runs_append hrun ⟨_, hpack, rfl⟩, ?_, rfl⟩
  exact {
    err := he
    config := hc
    free := hls.prefixFree s.treeOk_counted_built
    coded := hcoded
    count := (Memory.length_bytes _ _).symm
    fits := ⟨(Memory.length_bytes _ _).trans_le hlen, hfit⟩
    stream := prefix_streamBits_packBits _ _ }

/-- The state SWAP leaves, where ILEN is in range (R158). -/
def State.swapped (s : State) : State :=
  { s with ibuf := s.obuf, obuf := s.ibuf, ilen := s.olen, olen := s.ilen }.retire

theorem exec_swap {s : State} (he : s.err = 0#8) (hlen : s.ilen ≤ s.cfg.bufBytes) :
    exec .swap s = .next s.swapped :=
  command_ok he (by rw [swapBuffers, if_neg hlen.not_gt])

/-- SWAP puts the packed stream where the decoders read it (R158). -/
theorem Carries.swapped {s : State} {bs : List Byte} (h : Carries s s.obuf s.olen bs) :
    Carries s.swapped s.swapped.ibuf s.swapped.ilen bs :=
  { h with }

/-- Settles O51: SWAP moves the stream that encoding leaves, and decoding it gives the input. -/
theorem roundTripThroughEitherDecoder : Obligations.RoundTripThroughEitherDecoder := by
  unfold Obligations.RoundTripThroughEitherDecoder
  intro s he hc hlen d hd
  obtain ⟨p, hencode, hp, hilen⟩ := exists_runs_encode he hc hlen
  have hin : p.ilen ≤ p.cfg.bufBytes := by
    rw [hilen, ← Memory.length_bytes s.ibuf s.ilen]
    exact hp.fits.1
  obtain ⟨t, hdecode, herr, holen, hobuf⟩ := hp.swapped.runs_decoder hd
  refine ⟨t, runs_append (runs_append hencode ⟨p.swapped, exec_swap hp.err hin, rfl⟩) hdecode, herr,
    by rw [holen, Memory.length_bytes], fun i hi => ?_⟩
  simp [hobuf, Memory.read_writeBytes, Memory.bytes, hi]

end Sys2Proof.Machine

/-! PROOFS. The trie entry by entry: which bit-strings have one, how many there are, and, for a table that CGEN writes, that
they stand to each other as the nodes of the encoding tree do (R122). -/

namespace Sys2Proof.Machine

open Sys2Proof.Claims

/-! ### The entries of the trie -/

/-- The bit-strings that lead to an entry are those of which `D` holds, and every entry in use is led to. -/
structure TrieBuild.Spans (t : TrieBuild) (D : BitString → Prop) : Prop where
  leads : ∀ c, (trieFollow t.nodes 0 c).isSome = true ↔ D c
  reached : ∀ i, i < t.next → ∃ c, trieFollow t.nodes 0 c = some i

/-- From an entry in the trie one bit leads on exactly if its child is there. -/
theorem isSome_trieFollow_snoc {t : Sparse TrieNode} {c : BitString} {i : Nat} (h : trieFollow t 0 c = some i)
    (b : Bool) : (trieFollow t 0 (c ++ [b])).isSome = true ↔ (trieAt t i).child b ≠ 0xFFFF#16 := by
  rw [trieFollow_snoc, h, Option.bind_some, trieEdge]
  split_ifs with hnil <;> simp [hnil]

/-- What leads to an entry has been led to one all along. -/
theorem isSome_trieFollow_of_prefix {t : Sparse TrieNode} {c d : BitString} (hd : d <+: c)
    (h : (trieFollow t 0 c).isSome = true) : (trieFollow t 0 d).isSome = true := by
  obtain ⟨r, rfl⟩ := hd
  rw [trieFollow_append] at h
  exact Option.isSome_of_isSome_bind h

section Spans

variable {t : TrieBuild} {D D' : BitString → Prop} {cur : Nat} {p : BitString}

theorem TrieBuild.Spans.congr (h : t.Spans D) (hD : ∀ c, D c ↔ D' c) : t.Spans D' :=
  ⟨fun c => (h.leads c).trans (hD c), h.reached⟩

theorem TrieBuild.spans_empty : TrieBuild.Spans ⟨[], 1⟩ (· = []) := by
  refine ⟨fun c => ?_, fun i hi => ⟨[], ?_⟩⟩
  · cases c with
    | nil => exact iff_of_true rfl rfl
    | cons b c => simp [trieFollow_empty_cons]
  · exact congrArg some (Nat.lt_one_iff.1 hi).symm

/-- One bit of a Code adds the longer bit-string (R121). -/
theorem TrieBuild.Spans.grow (h : t.Spans D) (htree : t.Tree) (hcur : trieFollow t.nodes 0 p = some cur)
    (hfit : t.next < 65281) (b : Bool) : (trieGrow cur b t).Spans fun c => D c ∨ c = p ++ [b] := by
  by_cases hnil : (trieAt t.nodes cur).child b = 0xFFFF#16
  · have hfollow := trieFollow_trieGrow htree hcur hfit hnil
    refine ⟨fun c => ?_, fun i hi => ?_⟩
    · rw [hfollow, ← h.leads]
      split_ifs with hc <;> simp [hc]
    · rw [next_trieGrow hnil] at hi
      rcases Nat.lt_succ_iff_lt_or_eq.1 hi with hlt | rfl
      · obtain ⟨c, hc⟩ := h.reached i hlt
        have hne : c ≠ p ++ [b] := fun heq => by
          have hsome := (isSome_trieFollow_snoc hcur b).1 (by rw [← heq, hc]; rfl)
          exact hsome hnil
        exact ⟨c, by rw [hfollow, if_neg hne, hc]⟩
      · exact ⟨p ++ [b], by rw [hfollow, if_pos rfl]⟩
  · rw [trieGrow_of_child hnil]
    refine h.congr fun c => (or_iff_left_of_imp ?_).symm
    rintro rfl
    exact (h.leads _).1 ((isSome_trieFollow_snoc hcur b).2 hnil)

/-- Walking a Code adds its beginnings (R121). -/
theorem TrieBuild.Spans.insert (c : BitString) (h : t.Spans D) (htree : t.Tree)
    (hcur : trieFollow t.nodes 0 p = some cur) (hfit : t.next + c.length ≤ 65281) :
    (trieInsert c cur t).2.Spans fun d => D d ∨ d <+: p ++ c := by
  induction c generalizing cur p t D with
  | nil =>
    refine h.congr fun d => (or_iff_left_of_imp fun hd => (h.leads d).1 ?_).symm
    rw [List.append_nil] at hd
    exact isSome_trieFollow_of_prefix hd (by rw [hcur]; rfl)
  | cons b c ih =>
    rw [List.length_cons] at hfit
    obtain ⟨htree', hfollow, -⟩ := htree.grow hcur (by omega) b
    obtain ⟨-, hle, -⟩ := htree.ok.grow (htree.inUse p cur hcur) (by omega) le_rfl b
    refine (ih (h.grow htree hcur (by omega) b) htree' hfollow (by omega)).congr fun d => ?_
    rw [List.append_assoc, List.singleton_append, or_assoc]
    refine or_congr_right (or_iff_right_of_imp ?_)
    rintro rfl
    exact ⟨c, by simp⟩

theorem TrieBuild.Spans.addSymbol (tab : CodeTable) (sym : Nat) (h : t.Spans D) (htree : t.Tree)
    (hfit : t.next + 255 ≤ 65281) :
    (trieAddSymbol tab t sym).Spans fun d => D d ∨ (0 < tab.len sym ∧ d <+: tab.codeOf sym) := by
  have hlen : (tab.codeOf sym).length ≤ 255 := (tab.length_codeOf sym).trans_le (tab.len_le sym)
  unfold trieAddSymbol
  by_cases hpos : 0 < tab.len sym
  · have hins := h.insert (p := []) (tab.codeOf sym) htree rfl (by omega)
    simp only [hpos, if_true, true_and]
    exact ⟨fun d => by rw [trieFollow_trieMark]; exact hins.leads d,
      fun i hi => (hins.reached i hi).imp fun c hc => by rw [trieFollow_trieMark]; exact hc⟩
  · simpa only [hpos, if_false, false_and, or_false] using h

/-- Where `D` holds of the members of a list, the trie has as many entries as the list (R33). -/
theorem TrieBuild.Spans.next_eq_length (h : t.Spans D) (htree : t.Tree) {l : List BitString} (hl : l.Nodup)
    (hD : ∀ c, D c ↔ c ∈ l) : t.next = l.length := by
  have hsome : ∀ c ∈ l, ∃ n, trieFollow t.nodes 0 c = some n := fun c hc =>
    Option.isSome_iff_exists.1 ((h.leads c).2 ((hD c).2 hc))
  have hperm : (l.map (trieFollow t.nodes 0)).Perm ((List.range t.next).map some) := by
    refine (List.perm_ext_iff_of_nodup (hl.map_on fun c hc d hd heq => ?_)
      (List.nodup_range.map (Option.some_injective _))).2 fun e => ?_
    · obtain ⟨n, hn⟩ := hsome c hc
      exact htree.inj c d n hn (heq ▸ hn)
    · simp only [List.mem_map, List.mem_range]
      constructor
      · rintro ⟨c, hc, rfl⟩
        obtain ⟨n, hn⟩ := hsome c hc
        exact ⟨n, htree.inUse c n hn, hn.symm⟩
      · rintro ⟨n, hn, rfl⟩
        obtain ⟨c, hc⟩ := h.reached n hn
        exact ⟨c, (hD c).1 ((h.leads c).1 (by rw [hc]; rfl)), hc⟩
  simpa using hperm.length_eq.symm

end Spans

/-- `d` begins the Code of a Symbol below `n`, or is empty. -/
def CodeTable.Begins (tab : CodeTable) (n : Nat) (d : BitString) : Prop :=
  d = [] ∨ ∃ i, i < n ∧ 0 < tab.len i ∧ d <+: tab.codeOf i

theorem trieBelow_spans (tab : CodeTable) {n : Nat} (hn : n ≤ 256) : (trieBelow tab n).Spans (tab.Begins n) := by
  induction n with
  | zero => exact TrieBuild.spans_empty.congr fun c => by simp [CodeTable.Begins]
  | succ n ih =>
    obtain ⟨htree, hle⟩ := trieBelow_tree tab (n := n) (by omega)
    rw [trieBelow_succ]
    refine ((ih (by omega)).addSymbol tab n htree (by omega)).congr fun c => ?_
    simp only [CodeTable.Begins, Nat.lt_succ_iff_lt_or_eq, or_and_right, exists_or, exists_eq_left, or_assoc]

/-- Where no Code begins another, a marked entry of the trie has no child (R122). -/
theorem child_of_leaf {tab : CodeTable} (hfree : tab.PrefixFree) {i : Nat} (hi : i < (trieBelow tab 256).next)
    (hleaf : (trieAt (trieBelow tab 256).nodes i).leaf = true) (b : Bool) :
    (trieAt (trieBelow tab 256).nodes i).child b = 0xFFFF#16 := by
  have hspans := trieBelow_spans tab le_rfl
  obtain ⟨c, hc⟩ := hspans.reached i hi
  have hfind := trieFind_eq_of_follow hc
  rw [if_pos hleaf, trieFind_trieBelow] at hfind
  obtain ⟨hpos, hcode, -⟩ := hfind
  by_contra hchild
  obtain hnil | ⟨j, hj, hposj, hpre⟩ := (hspans.leads _).1 ((isSome_trieFollow_snoc hc b).2 hchild)
  · exact absurd hnil (by simp)
  · have hj' : (BitVec.ofNat 8 j).toNat = j := Nat.mod_eq_of_lt hj
    rw [← hj'] at hposj hpre
    have hsame := hfree _ _ hpos hposj (hcode ▸ (List.prefix_append c [b]).trans hpre)
    rw [← hsame, hcode] at hpre
    have hlen := hpre.length_le
    rw [List.length_append, List.length_singleton] at hlen
    omega

/-! ### The paths of the encoding tree -/

namespace CodeTree

/-- The paths to all nodes of the tree (R92). -/
def paths : CodeTree → List BitString
  | leaf _ => [[]]
  | inner _ l r => [] :: (l.paths.map (false :: ·) ++ r.paths.map (true :: ·))

/-- A tree with `n` leaves has `2 × n - 1` nodes. -/
theorem length_paths (T : CodeTree) : T.paths.length + 1 = 2 * T.leaves.length := by
  induction T with
  | leaf i => rfl
  | inner n l r ihl ihr =>
    simp only [paths, leaves, List.length_cons, List.length_append, List.length_map]
    omega

theorem nil_mem_paths (T : CodeTree) : [] ∈ T.paths := by
  cases T <;> simp [paths]

theorem mem_paths_inner {n : Nat} {l r : CodeTree} {b : Bool} {p : BitString} :
    b :: p ∈ (inner n l r).paths ↔ p ∈ (if b then r else l).paths := by
  cases b <;> simp [paths]

theorem nodup_paths (T : CodeTree) : T.paths.Nodup := by
  induction T with
  | leaf i => exact List.nodup_singleton _
  | inner n l r ihl ihr =>
    have hcons : ∀ b : Bool, Function.Injective (b :: · : BitString → BitString) := fun b => List.cons_injective
    refine List.nodup_cons.2 ⟨by simp, List.nodup_append.2 ⟨ihl.map (hcons _), ihr.map (hcons _), ?_⟩⟩
    simp

/-- The paths to the nodes are what the leaves' paths begin with. -/
theorem mem_paths_iff {T : CodeTree} {p : BitString} : p ∈ T.paths ↔ ∃ e ∈ T.leaves, p <+: e.2 := by
  induction T generalizing p with
  | leaf i => simp [paths, leaves]
  | inner n l r ihl ihr =>
    cases p with
    | nil =>
      obtain ⟨e, he, -⟩ := ihl.1 l.nil_mem_paths
      refine iff_of_true (nil_mem_paths _) ⟨(e.1, false :: e.2), mem_leaves_inner.2 (.inl ⟨e.2, rfl, he⟩), ?_⟩
      exact List.nil_prefix
    | cons b p =>
      rw [mem_paths_inner]
      cases b <;> simp [ihl, ihr, leaves, or_and_right, exists_or]

theorem isSome_treeFollow_iff {s : State} (h : s.TreeOk) {T : CodeTree} (hT : T.StandsIn s.node) {p : BitString} :
    (treeFollow s.node T.top p).isSome = true ↔ p ∈ T.paths := by
  induction T generalizing p with
  | leaf i =>
    obtain ⟨hi, hv⟩ := hT
    simp [Option.isSome_iff_exists, top, treeFollow_leaf h hi hv, paths]
  | inner n l r ihl ihr =>
    obtain ⟨hn, hv, hl, hr, hls, hrs⟩ := hT
    cases p with
    | nil => simp [treeFollow, top, hv, nil_mem_paths]
    | cons b p =>
      rw [top, treeFollow_cons h hn hv, mem_paths_inner]
      cases b
      · rw [hl]; exact ihl hls
      · rw [hr]; exact ihr hrs

end CodeTree

end Sys2Proof.Machine

/-! PROOFS. The trie of a table that TBLD and CGEN make, against the encoding tree: the same paths, marks at the leaves,
and the counts TCNT and MCNT (R122, R126). -/

namespace Sys2Proof.Machine

open Sys2Proof.Claims

section Mirror

variable {s : State} {ls : List (Nat × BitString)}

/-! ### What CGEN hands out, seen from the trie -/

section TreeOk

variable (h : s.TreeOk) (hls : HandsOut s ls)

include h hls

/-- The bit-strings with an entry begin the path of a leaf. -/
theorem HandsOut.begins_iff (p : BitString) :
    (handedOut s ls).table.Begins 256 p ↔ p = [] ∨ ∃ e ∈ ls, p <+: e.2 := by
  have hok := hls.codesOk h
  refine or_congr_right ⟨?_, ?_⟩
  · rintro ⟨i, -, hpos, hpre⟩
    exact ⟨(i, _), (codeOf_handedOut_iff h hok).1 ⟨hpos, rfl⟩, hpre⟩
  · rintro ⟨e, he, hpre⟩
    obtain ⟨hpos, hcode⟩ := (codeOf_handedOut_iff h hok).2 he
    exact ⟨e.1, (hok.symbol e he).1, hpos, hcode ▸ hpre⟩

/-- They are as many as the tree has nodes, and with one leaf one more, for the fallback Code (R107, R122). -/
theorem HandsOut.next_trieBelow : (trieBelow (handedOut s ls).table 256).next =
    if ls.length = 0 then 1 else if ls.length = 1 then 2 else 2 * ls.length - 1 := by
  have hspans := trieBelow_spans (handedOut s ls).table le_rfl
  have htree := (trieBelow_tree (handedOut s ls).table le_rfl).1
  have hbegins := hls.begins_iff h
  cases hls with
  | nothing =>
    exact hspans.next_eq_length htree (l := [[]]) (List.nodup_singleton _) fun p => by simp [hbegins]
  | fallback =>
    refine hspans.next_eq_length htree (l := [[], [false]]) (by simp) fun p => ?_
    rw [hbegins]
    rcases p with _ | ⟨b, _ | ⟨d, p⟩⟩ <;> simp
  | @paths T _ hge htop hT =>
    rw [hspans.next_eq_length htree T.nodup_paths fun p => ?_]
    · have hlen := T.length_paths
      cases T with
      | leaf i =>
        have hi : i < 256 := hT.1
        exact absurd (htop.trans_ge hge) (Nat.not_le.2 hi)
      | inner n l r =>
        have hl := l.length_paths
        have hr := r.length_paths
        simp only [CodeTree.leaves, List.length_append, List.length_map] at hlen ⊢
        rw [if_neg (by omega), if_neg (by omega)]
        omega
    · rw [hbegins, CodeTree.mem_paths_iff]
      refine or_iff_right_of_imp ?_
      rintro rfl
      exact CodeTree.mem_paths_iff.1 T.nil_mem_paths

/-- Marks stand at the leaves, with the leaf's Symbol (R122). -/
theorem HandsOut.mark_eq (hge : 256 ≤ s.root.toNat) (hnil : s.root ≠ 0x1FF#9) {p : BitString} {n m : Nat}
    (hn : treeFollow s.node s.root.toNat p = some n)
    (hm : trieFollow (trieBelow (handedOut s ls).table 256).nodes 0 p = some m) :
    (trieAt (trieBelow (handedOut s ls).table 256).nodes m).leaf = !(nodeAt s.node n).tag ∧
      ((trieAt (trieBelow (handedOut s ls).table 256).nodes m).leaf = true →
        (trieAt (trieBelow (handedOut s ls).table 256).nodes m).sym = (nodeAt s.node n).sym) := by
  have hok := hls.codesOk h
  have hfind := trieFind_eq_of_follow hm
  have hv := treeValid_of_treeFollow hn
  rcases Nat.lt_or_ge n 256 with hlt | hge'
  · obtain ⟨htag, hsym⟩ := h.leaf n hlt hv
    have hn' : (BitVec.ofNat 8 n).toNat = n := Nat.mod_eq_of_lt hlt
    obtain ⟨hpos, hcode⟩ := (codeOf_handedOut_iff h hok).2 ((hls.mem_iff h hge hnil).2 ⟨hlt, hn⟩)
    rw [← hn'] at hpos hcode
    obtain ⟨-, hword, -⟩ := (hls.prefixFree h).isWord_codeOf (trieFind_trieBelow _) hpos
    rw [hcode, hfind] at hword
    split_ifs at hword with hleaf
    refine ⟨by rw [hleaf, htag]; rfl, fun _ => ?_⟩
    rw [Option.some.inj hword]
    exact BitVec.eq_of_toNat_eq (hn'.trans hsym.symm)
  · have hleaf : (trieAt (trieBelow (handedOut s ls).table 256).nodes m).leaf = false := by
      by_contra hleaf
      rw [Bool.not_eq_false] at hleaf
      rw [if_pos hleaf, trieFind_trieBelow] at hfind
      obtain ⟨hpos, hcode, -⟩ := hfind
      obtain ⟨hlt, hfollow⟩ := (hls.mem_iff h hge hnil).1 ((codeOf_handedOut_iff h hok).1 ⟨hpos, hcode⟩)
      have := Option.some.inj (hn.symm.trans hfollow)
      omega
    obtain ⟨-, htag, -⟩ := h.inner n hge' hv
    simp [hleaf, htag]

/-- The same bit-strings lead to a node and to an entry (R122). -/
theorem HandsOut.isSome_follow_eq (hge : 256 ≤ s.root.toNat) (hnil : s.root ≠ 0x1FF#9) (p : BitString) :
    (treeFollow s.node s.root.toNat p).isSome =
      (trieFollow (trieBelow (handedOut s ls).table 256).nodes 0 p).isSome := by
  have hspans := trieBelow_spans (handedOut s ls).table le_rfl
  rw [Bool.eq_iff_iff, hspans.leads, hls.begins_iff h]
  cases hls with
  | nothing heq => exact absurd heq hnil
  | fallback hlt => exact absurd hlt (Nat.not_lt.2 hge)
  | @paths T _ _ htop hT =>
    rw [← htop, CodeTree.isSome_treeFollow_iff h hT, CodeTree.mem_paths_iff]
    refine (or_iff_right_of_imp ?_).symm
    rintro rfl
    exact CodeTree.mem_paths_iff.1 T.nil_mem_paths

/-- An entry without a mark has both children, where the tree has an Internal node (R122). -/
theorem HandsOut.child_of_not_leaf (hge : 256 ≤ s.root.toNat) (hnil : s.root ≠ 0x1FF#9) {i : Nat}
    (hi : i < (trieBelow (handedOut s ls).table 256).next)
    (hleaf : (trieAt (trieBelow (handedOut s ls).table 256).nodes i).leaf = false) (b : Bool) :
    (trieAt (trieBelow (handedOut s ls).table 256).nodes i).child b ≠ 0xFFFF#16 := by
  obtain ⟨c, hc⟩ := (trieBelow_spans (handedOut s ls).table le_rfl).reached i hi
  have hsame := hls.isSome_follow_eq h hge hnil
  obtain ⟨n, hn⟩ := Option.isSome_iff_exists.1 ((hsame c).trans (by rw [hc]; rfl))
  obtain ⟨hmark, -⟩ := hls.mark_eq h hge hnil hn hc
  have hv := treeValid_of_treeFollow hn
  have hn256 : 256 ≤ n := h.ge_of_tag hv (by simpa [hleaf] using hmark)
  obtain ⟨-, -, hchild⟩ := h.inner n hn256 hv
  rw [← isSome_trieFollow_snoc hc b, ← hsame, treeFollow_append, hn, Option.bind_some, treeFollow_cons h hn256 hv,
    treeFollow, if_pos (hchild b).2]
  rfl

/-- The sole leaf hangs from the left edge of the root (R107, R122). -/
theorem HandsOut.children_of_fallback (hlt : s.root.toNat < 256) :
    (trieAt (trieBelow (handedOut s ls).table 256).nodes 0).child true = 0xFFFF#16 ∧
      (trieAt (trieBelow (handedOut s ls).table 256).nodes 0).child false ≠ 0xFFFF#16 := by
  have hroot : ∀ b, (trieAt (trieBelow (handedOut s ls).table 256).nodes 0).child b ≠ 0xFFFF#16 ↔ b = false := by
    intro b
    rw [← isSome_trieFollow_snoc (c := []) rfl b, (trieBelow_spans _ le_rfl).leads, hls.begins_iff h,
      hls.eq_fallback hlt]
    simp
  exact ⟨not_not.1 fun hne => absurd ((hroot true).1 hne) (by decide), (hroot false).2 rfl⟩

end TreeOk

/-! ### The counts -/

theorem State.toNat_nleaf_built (s : State) : s.built.nleaf.toNat = (presentSymbols s.freq).length :=
  Nat.mod_eq_of_lt (show (presentSymbols s.freq).length < 512 from
    (length_presentSymbols_le s.freq).trans_lt (by omega))

variable (hf : ∀ i, i < 256 → Sparse.get 0 s.freq i < 2 ^ s.cfg.lenW) (hls : HandsOut s.built ls)

include hf hls

/-- CGEN hands out one Code for each Symbol of positive frequency (R109 a). -/
theorem HandsOut.length_eq : ls.length = (presentSymbols s.freq).length := by
  have hok := hls.codesOk (State.treeOk_built hf)
  have hperm : (ls.map Prod.fst).Perm (presentSymbols s.freq) := by
    refine (List.perm_ext_iff_of_nodup hok.nodup (List.nodup_range.filter _)).2 fun c => ?_
    refine Iff.trans ?_ mem_presentSymbols.symm
    constructor
    · intro hc
      obtain ⟨e, he, rfl⟩ := List.mem_map.1 hc
      have hlt := (hok.symbol e he).1
      exact ⟨hlt, (hls.exists_mem_iff hf hlt).1 ⟨e.2, he⟩⟩
    · rintro ⟨hlt, hpos⟩
      obtain ⟨p, hp⟩ := (hls.exists_mem_iff hf hlt).2 hpos
      exact List.mem_map.2 ⟨(c, p), hp, rfl⟩
  simpa using hperm.length_eq

/-- The map has an entry for each Symbol of positive frequency, since no two of them share a Code (R126). -/
theorem HandsOut.length_mapBelow :
    (mapBelow (handedOut s.built ls).table 256).length = (presentSymbols s.freq).length := by
  have h := State.treeOk_built hf
  have hok := hls.codesOk h
  have hpresent : ((List.range 256).filter fun i => decide (0 < (handedOut s.built ls).table.len i)) =
      presentSymbols s.freq :=
    List.filter_congr fun i hi => decide_eq_decide.2
      ((len_handedOut_pos_iff h hok).trans (hls.exists_mem_iff hf (List.mem_range.1 hi)))
  have hnodup : (codesBelow (handedOut s.built ls).table 256).Nodup := by
    refine (List.nodup_range.filter _).map_on fun i hi j hj heq => ?_
    simp only [List.mem_filter, decide_eq_true_eq] at hi hj
    have hmem : ∀ {k}, 0 < (handedOut s.built ls).table.len k → (k, (handedOut s.built ls).table.codeOf k) ∈ ls :=
      fun hk => (codeOf_handedOut_iff h hok).1 ⟨hk, rfl⟩
    exact hls.eq_of_prefix h (hmem hi.2) (hmem hj.2) (heq ▸ List.prefix_rfl)
  rw [Machine.length_mapBelow, hnodup.dedup, codesBelow, hpresent, List.length_map]

end Mirror

/-- TBLD, CGEN, TRIE and MAPB complete; what they leave in NODE, TRIE and the registers beside them. -/
theorem exists_runs_mirror {s : State} (he : s.err = 0#8)
    (hf : ∀ i, i < 256 → Sparse.get 0 s.freq i < 2 ^ s.cfg.lenW) :
    ∃ ls, HandsOut s.built ls ∧ ∃ t : State, runs [.tbld, .cgen, .trie, .mapb] s t ∧ t.err = 0#8 ∧
      t.node = s.built.node ∧ t.root = s.built.root ∧ t.nleaf = s.built.nleaf ∧
      t.trie = (trieBelow (handedOut s.built ls).table 256).nodes ∧
      t.tcnt = BitVec.ofNat 16 (trieBelow (handedOut s.built ls).table 256).next ∧
      t.mcnt = BitVec.ofNat 9 (mapBelow (handedOut s.built ls).table 256).length := by
  obtain ⟨ls, hls, hrun⟩ := exec_cgen (s := s.built) he (State.treeOk_built hf)
  refine ⟨ls, hls, (s.built.coded ls).trieBuilt.mapBuilt, ⟨s.built, exec_tbld he, s.built.coded ls, hrun,
    (s.built.coded ls).trieBuilt, exec_trie he, _, exec_mapb he, rfl⟩, he, rfl, rfl, rfl, ?_, ?_, ?_⟩
  · rfl
  · rfl
  · rw [State.mcnt_mapBuilt]
    rfl

/-- Settles O52: the trie and the map of the table that CGEN hands out on the tree of TBLD. -/
theorem trieMirrorsTheEncodingTree : Obligations.TrieMirrorsTheEncodingTree := by
  unfold Obligations.TrieMirrorsTheEncodingTree
  intro s he _ hf
  have h := State.treeOk_built hf
  obtain ⟨ls, hls, t, hrun, herr, hnode, hroot, hnleaf, htrie, htcnt, hmcnt⟩ := exists_runs_mirror he hf
  obtain ⟨hone, htwo⟩ := State.root_built_cases hf
  have hcount : (BitVec.ofNat 16 (trieBelow (handedOut s.built ls).table 256).next).toNat =
      (trieBelow (handedOut s.built ls).table 256).next := by
    have hle := (trieBelow_tree (handedOut s.built ls).table le_rfl).2
    exact Nat.mod_eq_of_lt (by omega)
  have hlen : s.built.nleaf.toNat = ls.length := s.toNat_nleaf_built.trans (hls.length_eq hf).symm
  refine ⟨t, hrun, herr, ?_, ?_⟩
  · rw [hmcnt, hnleaf, hls.length_mapBelow hf, State.nleaf_built]
  · rw [hnode, hroot, hnleaf, htrie, htcnt, hcount]
    refine ⟨fun hl p => ?_, ?_, fun hl => ?_, fun i b hi => ⟨fun hleaf => ?_, fun hl hleaf => ?_⟩⟩
    · obtain ⟨hge, hnil⟩ := htwo hl
      exact ⟨hls.isSome_follow_eq h hge hnil p, fun n m => hls.mark_eq h hge hnil⟩
    · rw [hls.next_trieBelow h, ← hlen]
      simp only [← BitVec.toNat_inj]
      rfl
    · exact hls.children_of_fallback h (hone (congrArg BitVec.toNat hl))
    · exact child_of_leaf (hls.prefixFree h) hi hleaf b
    · obtain ⟨hge, hnil⟩ := htwo hl
      exact hls.child_of_not_leaf h hge hnil hi hleaf b

end Sys2Proof.Machine

/-! PROOFS. The persisted table: the reader gives back the table and the count that the writer wrote, for a table in
canonical form with zeros past every Code (R167, R174, R175). -/

namespace Sys2Proof.Machine

/-! ### Digits and fields -/

/-- The characters that part a text into lines and a line into fields (R173, R175). -/
def separators : List Char := ['\n', '\r', ' ']

/-- A text that is one field of a line. -/
def Unbroken (t : Text) : Prop := ∀ c ∈ t, c ∉ separators

theorem digitValue_digitChar : ∀ d, d < 16 → digitValue (digitChar d) = some d := by decide

theorem digitChar_not_mem_separators : ∀ d, d < 16 → digitChar d ∉ separators := by decide

theorem numberLoop_digitChar {base d : Nat} (hbase : base ≤ 16) (hd : d < base) (cs : Text) (acc : Nat) :
    numberLoop base (digitChar d :: cs) acc = numberLoop base cs (acc * base + d) := by
  simp only [numberLoop, digitValue_digitChar d (hd.trans_le hbase), if_pos hd]

theorem fieldValue_hexField (v : Byte) : fieldValue (hexField v) = some v.toNat := by
  have hv := v.isLt
  have hloop : numberLoop 16 (hex2 v) 0 = some v.toNat := by
    rw [hex2, numberLoop_digitChar le_rfl (by omega), numberLoop_digitChar le_rfl (by omega), numberLoop]
    congr 1
    omega
  rw [hexField, fieldValue, number, if_neg (by simp [hex2]), hloop]

theorem unbroken_hexField (v : Byte) : Unbroken (hexField v) := by
  have hv := v.isLt
  have hhigh := digitChar_not_mem_separators (v.toNat / 16) (by omega)
  have hlow := digitChar_not_mem_separators (v.toNat % 16) (by omega)
  simp only [Unbroken, hexField, hex2, List.mem_cons, List.not_mem_nil, or_false, forall_eq_or_imp, forall_eq]
  exact ⟨by decide, by decide, hhigh, hlow⟩

/-- Reading decimal digits gives the number they were written for (R170). -/
theorem numberLoop_decimalLoop {fuel n : Nat} (h : n < fuel) (acc : Text) :
    numberLoop 10 (decimalLoop fuel n acc) 0 = numberLoop 10 acc n := by
  induction fuel generalizing n acc with
  | zero => exact absurd h (Nat.not_lt_zero n)
  | succ fuel ih =>
    unfold decimalLoop
    split_ifs with hn
    · rw [numberLoop_digitChar (by omega) hn, Nat.zero_mul, Nat.zero_add]
    · rw [ih (by omega), numberLoop_digitChar (by omega) (by omega), Nat.div_add_mod']

theorem decimalLoop_ne_nil (fuel n : Nat) (acc : Text) : decimalLoop (fuel + 1) n acc ≠ [] := by
  induction fuel generalizing n acc with
  | zero =>
    unfold decimalLoop
    split_ifs <;> simp [decimalLoop]
  | succ fuel ih =>
    unfold decimalLoop
    split_ifs
    · simp
    · exact ih _ _

theorem unbroken_decimalLoop (fuel n : Nat) {acc : Text} (h : Unbroken acc) : Unbroken (decimalLoop fuel n acc) := by
  have hcons : ∀ {acc : Text} (d : Nat), d < 10 → Unbroken acc → Unbroken (digitChar d :: acc) := fun d hd hacc =>
    List.forall_mem_cons.2 ⟨digitChar_not_mem_separators d (by omega), hacc⟩
  induction fuel generalizing n acc with
  | zero => exact h
  | succ fuel ih =>
    unfold decimalLoop
    split_ifs with hn
    · exact hcons n hn h
    · exact ih _ (hcons _ (by omega) h)

theorem number_decimal (n : Nat) : number 10 (decimal n) = some n := by
  rw [number, decimal, if_neg (decimalLoop_ne_nil n n []), numberLoop_decimalLoop (Nat.lt_succ_self n), numberLoop]

theorem unbroken_decimal (n : Nat) : Unbroken (decimal n) :=
  unbroken_decimalLoop _ _ fun _ h => absurd h List.not_mem_nil

/-! ### Lines and fields -/

section Split

variable {c : Char} {l r : Text} {ls : List Text}

theorem splitAt_of_not_mem (h : c ∉ l) : splitAt c l = [l] := by
  induction l with
  | nil => rfl
  | cons x l ih =>
    obtain ⟨hx, hl⟩ := List.ne_and_not_mem_of_not_mem_cons h
    simp only [splitAt, if_neg hx.symm, ih hl]

theorem splitAt_append_separator (h : c ∉ l) : splitAt c (l ++ c :: r) = l :: splitAt c r := by
  induction l with
  | nil => simp [splitAt]
  | cons x l ih =>
    obtain ⟨hx, hl⟩ := List.ne_and_not_mem_of_not_mem_cons h
    simp only [List.cons_append, splitAt, if_neg hx.symm, ih hl]

/-- Pieces that each end in the separator. -/
theorem splitAt_ended (h : ∀ l ∈ ls, c ∉ l) : splitAt c (ls.flatMap fun l => l ++ [c]) = ls ++ [[]] := by
  induction ls with
  | nil => rfl
  | cons l ls ih =>
    obtain ⟨hl, hls⟩ := List.forall_mem_cons.1 h
    rw [List.flatMap_cons, List.append_assoc, List.singleton_append, splitAt_append_separator hl, ih hls,
      List.cons_append]

/-- Pieces with the separator between them. -/
theorem splitAt_joined (hl : c ∉ l) (h : ∀ l ∈ ls, c ∉ l) : splitAt c (l ++ ls.flatMap (c :: ·)) = l :: ls := by
  induction ls generalizing l with
  | nil => rw [List.flatMap_nil, List.append_nil, splitAt_of_not_mem hl]
  | cons l' ls ih =>
    obtain ⟨hl', hls⟩ := List.forall_mem_cons.1 h
    rw [List.flatMap_cons, List.cons_append, splitAt_append_separator hl, ih hl' hls]

/-- Lines that each end in a line feed are read back (R173 d, R175). -/
theorem textLines_ended (h : ∀ l ∈ ls, '\n' ∉ l ∧ '\r' ∉ l) :
    textLines (ls.flatMap fun l => l ++ ['\n']) = ls := by
  have hdrop : ls.map dropReturn = ls := by
    refine (List.map_congr_left fun l hl => ?_).trans (List.map_id _)
    rw [dropReturn, if_neg fun hlast => (h l hl).2 (List.mem_of_getLast? hlast), id]
  unfold textLines
  simp only [splitAt_ended fun l hl => (h l hl).1, List.dropLast_concat, List.getLast?_concat, hdrop]

theorem dropEmptyTail_of_ne_nil (h : ∀ l ∈ ls, l ≠ []) : dropEmptyTail ls = ls := by
  have hkeep : ls.reverse.dropWhile List.isEmpty = ls.reverse := by
    refine List.dropWhile_eq_self_iff.2 fun hlen => ?_
    have hmem := h _ (List.mem_reverse.1 (List.getElem_mem hlen))
    simpa using hmem
  rw [dropEmptyTail, hkeep, List.reverse_reverse]

end Split

/-! ### Records -/

/-- The record of Symbol `s` with `w` of its Code's bytes (R171). -/
def CodeTable.record (t : CodeTable) (w s : Nat) : Record :=
  ⟨s, t.len s, (List.range w).map fun j => (codeByte (t.codeOf s) j).toNat⟩

/-- The bits past the end of a Code are zeros in its last byte (R176 g). -/
theorem toNat_codeByte_mod (c : BitString) (j : Nat) : (codeByte c j).toNat % 2 ^ (8 * (j + 1) - c.length) = 0 := by
  refine Nat.eq_of_testBit_eq fun i => ?_
  rw [Nat.testBit_mod_two_pow, Nat.zero_testBit, Bool.and_eq_false_imp, decide_eq_true_eq]
  intro hi
  rcases Nat.lt_or_ge i 8 with hi8 | hi8
  · have hbit := getLsbD_codeByte c j (k := 7 - i) (by omega)
    rw [show 7 - (7 - i) = i by omega, List.getD_eq_default _ _ (by omega)] at hbit
    exact hbit
  · exact BitVec.getLsbD_of_ge _ _ hi8

theorem mapM_fieldValue (vs : List Byte) : (vs.map hexField).mapM fieldValue = some (vs.map BitVec.toNat) := by
  induction vs with
  | nil => rfl
  | cons v vs ih => simp [fieldValue_hexField, ih]

section Record

variable {t : CodeTable} {s : Nat}

theorem recordOk_iff (r : Record) : recordOk r = true ↔
    r.sym ≤ 255 ∧ (1 ≤ r.len ∧ r.len ≤ 255) ∧ (∀ b ∈ r.bytes, b ≤ 255) ∧ r.bytes.length = ceilDiv r.len 8 ∧
      r.bytes.getLast?.getD 0 % 2 ^ (8 * ceilDiv r.len 8 - r.len) = 0 := by
  simp only [recordOk, Bool.and_eq_true, decide_eq_true_eq, List.all_eq_true, and_assoc]

theorem recordOk_record (hs : s < 256) (hpos : 0 < t.len s) :
    recordOk (t.record (ceilDiv (t.len s) 8) s) = true := by
  refine (recordOk_iff _).2 ⟨Nat.le_of_lt_succ hs, ⟨hpos, t.len_le s⟩, fun v hv => ?_, by simp [CodeTable.record], ?_⟩
  · obtain ⟨j, -, rfl⟩ := List.mem_map.1 hv
    exact Nat.le_of_lt_succ (codeByte (t.codeOf s) j).isLt
  · obtain ⟨k, hk⟩ := Nat.exists_eq_succ_of_ne_zero (show ceilDiv (t.len s) 8 ≠ 0 by unfold ceilDiv; omega)
    have hlast := toNat_codeByte_mod (t.codeOf s) k
    rw [t.length_codeOf] at hlast
    simp only [CodeTable.record, hk, List.range_succ, List.map_append, List.map_singleton, List.getLast?_concat]
    exact hlast

/-- The fields of a record line (R171). -/
theorem recordLine_eq (t : CodeTable) (s : Nat) : recordLine t s = hexField (BitVec.ofNat 8 s) ++
    ((BitVec.ofNat 8 (t.len s) :: (List.range (ceilDiv (t.len s) 8)).map (codeByte (t.codeOf s))).map
      hexField).flatMap (' ' :: ·) := by
  simp [recordLine, List.flatMap_map]

theorem parseRecord_recordLine (hs : s < 256) (hpos : 0 < t.len s) :
    parseRecord (recordLine t s) = some (t.record (ceilDiv (t.len s) 8) s) := by
  have hfields : splitAt ' ' (recordLine t s) = (BitVec.ofNat 8 s :: BitVec.ofNat 8 (t.len s) ::
      (List.range (ceilDiv (t.len s) 8)).map (codeByte (t.codeOf s))).map hexField := by
    have hspace : ∀ v, ' ' ∉ hexField v := fun v h => unbroken_hexField v _ h (by decide)
    rw [recordLine_eq]
    refine splitAt_joined (hspace _) fun l hl => ?_
    obtain ⟨v, -, rfl⟩ := List.mem_map.1 hl
    exact hspace v
  have hok := recordOk_record hs hpos
  have hle := t.len_le s
  obtain ⟨k, hk⟩ := Nat.exists_eq_succ_of_ne_zero (show ceilDiv (t.len s) 8 ≠ 0 by unfold ceilDiv; omega)
  have hvalues : (splitAt ' ' (recordLine t s)).mapM fieldValue =
      some (s :: t.len s :: (t.record (ceilDiv (t.len s) 8) s).bytes) := by
    rw [hfields, mapM_fieldValue]
    simp only [List.map_cons, List.map_map, BitVec.toNat_ofNat, Nat.mod_eq_of_lt hs,
      Nat.mod_eq_of_lt (Nat.lt_succ_of_le hle), CodeTable.record]
    rfl
  rw [hk] at hvalues hok ⊢
  simp only [CodeTable.record, List.range_succ_eq_map, List.map_cons] at hvalues hok ⊢
  simp only [parseRecord, hvalues, hok, if_true]

theorem recordLine_plain (t : CodeTable) (s : Nat) : '\n' ∉ recordLine t s ∧ '\r' ∉ recordLine t s := by
  have hfree : ∀ c ∈ separators, c ≠ ' ' → c ∉ recordLine t s := by
    intro c hc hne hmem
    have hfield : ∀ v, c ∉ hexField v := fun v h => unbroken_hexField v c h hc
    rw [recordLine_eq] at hmem
    simp [hfield, hne] at hmem
  exact ⟨hfree _ (by decide) (by decide), hfree _ (by decide) (by decide)⟩

end Record

/-! ### Storing records -/

/-- A table after the records of the Symbols `syms` of `t` were stored in it, `w s` bytes of the Code of `s` (R175). -/
def CodeTable.stored (t : CodeTable) (w : Nat → Nat) (syms : List Nat) (a : CodeTable) : CodeTable :=
  syms.foldl (fun a s => storeRecord a (t.record (w s) s)) a

/-- The Symbols that have a Code, in ascending order (R172). -/
def CodeTable.present (t : CodeTable) : List Nat := (List.range 256).filter fun s => decide (0 < t.len s)

theorem CodeTable.mem_present {t : CodeTable} {s : Nat} : s ∈ t.present ↔ s < 256 ∧ 0 < t.len s := by
  simp [present]

theorem get_storeCodeBytes (s : Nat) (bs : List Nat) (j : Nat) (m : Sparse Byte) (i : Nat) :
    Sparse.get 0#8 (storeCodeBytes s bs j m) i =
      if 32 * s + j ≤ i ∧ i < 32 * s + j + bs.length then BitVec.ofNat 8 (bs.getD (i - (32 * s + j)) 0)
      else Sparse.get 0#8 m i := by
  induction bs generalizing j m with
  | nil => simp [storeCodeBytes, show ¬ (32 * s + j ≤ i ∧ i < 32 * s + j) by omega]
  | cons b bs ih =>
    rw [storeCodeBytes, ih, Sparse.get_set, List.length_cons]
    rcases Nat.lt_trichotomy i (32 * s + j) with hlt | rfl | hgt
    · rw [if_neg (by omega), if_neg (by omega), if_neg (by omega)]
    · rw [if_neg (by omega), if_pos rfl, if_pos (by omega), Nat.sub_self, List.getD_cons_zero]
    · rw [if_neg (show ¬ i = 32 * s + j by omega)]
      refine if_congr (by omega) ?_ rfl
      rw [show i - (32 * s + j) = i - (32 * s + (j + 1)) + 1 by omega, List.getD_cons_succ]

theorem wf_storeCodeBytes {s : Nat} {bs : List Nat} {j : Nat} {m : Sparse Byte} (h : Sparse.wf 0#8 8192 m = true)
    (hfit : 32 * s + j + bs.length ≤ 8192) : Sparse.wf 0#8 8192 (storeCodeBytes s bs j m) = true := by
  induction bs generalizing j m with
  | nil => exact h
  | cons b bs ih =>
    rw [List.length_cons] at hfit
    exact ih (Sparse.wf_set _ h (by omega)) (by omega)

section Stored

variable {t a : CodeTable} {w : Nat → Nat} {syms : List Nat}

theorem get_cbits_storeRecord {n j : Nat} (hn : n ≤ 32) (hj : j < 32) (s u : Nat) :
    Sparse.get 0#8 (storeRecord a (t.record n s)).cbits (32 * u + j) =
      if u = s ∧ j < n then codeByte (t.codeOf u) j else Sparse.get 0#8 a.cbits (32 * u + j) := by
  rw [storeRecord, get_storeCodeBytes]
  simp only [CodeTable.record, List.length_map, List.length_range]
  by_cases hin : u = s ∧ j < n
  · obtain ⟨rfl, hjn⟩ := hin
    have hget : ((List.range n).map fun j => (codeByte (t.codeOf u) j).toNat)[j]? =
        some (codeByte (t.codeOf u) j).toNat := by simp [hjn]
    rw [if_pos (by omega), if_pos ⟨rfl, hjn⟩, show 32 * u + j - (32 * u + 0) = j by omega,
      List.getD_eq_getElem?_getD, hget, Option.getD_some, BitVec.ofNat_toNat, BitVec.setWidth_eq]
  · rw [if_neg (by omega), if_neg hin]

theorem get_stored (hw : ∀ s ∈ syms, w s ≤ 32) (u : Nat) :
    Sparse.get 0#8 (t.stored w syms a).clen u =
        (if u ∈ syms then BitVec.ofNat 8 (t.len u) else Sparse.get 0#8 a.clen u) ∧
      ∀ j, j < 32 → Sparse.get 0#8 (t.stored w syms a).cbits (32 * u + j) =
        if u ∈ syms ∧ j < w u then codeByte (t.codeOf u) j else Sparse.get 0#8 a.cbits (32 * u + j) := by
  induction syms generalizing a with
  | nil => exact ⟨by simp [CodeTable.stored], fun j _ => by simp [CodeTable.stored]⟩
  | cons s syms ih =>
    obtain ⟨hs, hsyms⟩ := List.forall_mem_cons.1 hw
    obtain ⟨hclen, hcbits⟩ := ih hsyms (a := storeRecord a (t.record (w s) s))
    constructor
    · refine hclen.trans ?_
      have hstep : Sparse.get 0#8 (storeRecord a (t.record (w s) s)).clen u =
          if u = s then BitVec.ofNat 8 (t.len s) else Sparse.get 0#8 a.clen u := Sparse.get_set _ _ _ _ _
      simp only [hstep, List.mem_cons]
      by_cases hus : u = s
      · subst hus
        simp
      · simp [hus]
    · intro j hj
      refine (hcbits j hj).trans ?_
      simp only [get_cbits_storeRecord hs hj, List.mem_cons]
      by_cases hus : u = s
      · subst hus
        by_cases hjw : j < w u <;> simp [hjw]
      · simp [hus]

theorem wf_stored (hw : ∀ s ∈ syms, s < 256 ∧ w s ≤ 32) (hclen : Sparse.wf 0#8 256 a.clen = true)
    (hcbits : Sparse.wf 0#8 8192 a.cbits = true) :
    Sparse.wf 0#8 256 (t.stored w syms a).clen = true ∧ Sparse.wf 0#8 8192 (t.stored w syms a).cbits = true := by
  induction syms generalizing a with
  | nil => exact ⟨hclen, hcbits⟩
  | cons s syms ih =>
    obtain ⟨⟨hs, hws⟩, hsyms⟩ := List.forall_mem_cons.1 hw
    refine ih hsyms (Sparse.wf_set _ hclen hs) (wf_storeCodeBytes hcbits ?_)
    simp only [CodeTable.record, List.length_map, List.length_range]
    omega

end Stored

/-- A table in canonical form with zeros past every Code, as CGEN writes it (R167). -/
structure CodeTable.Clean (t : CodeTable) : Prop where
  clen : Sparse.wf 0#8 256 t.clen = true
  cbits : Sparse.wf 0#8 8192 t.cbits = true
  padding : ∀ s k, s < 256 → t.len s ≤ k → k < 256 → t.bit s k = false

section Clean

variable {t : CodeTable} (ht : t.Clean)

theorem codeByte_of_length_le {c : BitString} {j : Nat} (h : c.length ≤ 8 * j) : codeByte c j = 0#8 := by
  refine BitVec.eq_of_getLsbD_eq fun i hi => ?_
  rw [show i = 7 - (7 - i) by omega, getLsbD_codeByte c j (by omega), List.getD_eq_default _ _ (by omega),
    BitVec.getLsbD_zero]

include ht

/-- Each byte of CBITS is that byte of the Code. -/
theorem CodeTable.Clean.get_cbits {s j : Nat} (hs : s < 256) (hj : j < 32) :
    Sparse.get 0#8 t.cbits (32 * s + j) = codeByte (t.codeOf s) j := by
  refine BitVec.eq_of_getLsbD_eq fun i hi => ?_
  have hbit : t.bit s (8 * j + (7 - i)) = (Sparse.get 0#8 t.cbits (32 * s + j)).getLsbD i := by
    rw [CodeTable.bit, show (8 * j + (7 - i)) / 8 = j by omega, show 7 - (8 * j + (7 - i)) % 8 = i by omega]
  have hcode := getLsbD_codeByte (t.codeOf s) j (k := 7 - i) (by omega)
  rw [show 7 - (7 - i) = i by omega] at hcode
  rw [hcode, ← hbit]
  rcases Nat.lt_or_ge (8 * j + (7 - i)) (t.len s) with hlt | hge
  · rw [List.getD_eq_getElem _ _ (hlt.trans_eq (t.length_codeOf s).symm), t.getElem_codeOf]
  · rw [List.getD_eq_default _ _ ((t.length_codeOf s).trans_le hge), ht.padding s _ hs hge (by omega)]

/-- Storing all records of a table gives the table, whether a record holds the Code's bytes or more (R167). -/
theorem CodeTable.Clean.stored_present {w : Nat → Nat} (hw : ∀ s, ceilDiv (t.len s) 8 ≤ w s ∧ w s ≤ 32) :
    t.stored w t.present CodeTable.empty = t := by
  obtain ⟨hclen, hcbits⟩ := wf_stored (t := t) (w := w) (syms := t.present) (a := CodeTable.empty)
    (fun s hs => ⟨(CodeTable.mem_present.1 hs).1, (hw s).2⟩) rfl rfl
  have hget := get_stored (t := t) (w := w) (syms := t.present) (a := CodeTable.empty) fun s _ => (hw s).2
  have hlens : (t.stored w t.present CodeTable.empty).clen = t.clen := by
    refine Sparse.eq_of_get_eq hclen ht.clen fun i => ?_
    rcases Nat.lt_or_ge i 256 with hi | hi
    · have hlen : BitVec.ofNat 8 (t.len i) = Sparse.get 0#8 t.clen i := BitVec.ofNat_toNat _ _
      rw [(hget i).1, hlen]
      split_ifs with hpresent
      · rfl
      · have hzero : t.len i = 0 := by
          rw [CodeTable.mem_present] at hpresent
          omega
        rw [← hlen, hzero]
        rfl
    · rw [Sparse.get_of_ge hclen hi, Sparse.get_of_ge ht.clen hi]
  have hbytes : (t.stored w t.present CodeTable.empty).cbits = t.cbits := by
    refine Sparse.eq_of_get_eq hcbits ht.cbits fun i => ?_
    rcases Nat.lt_or_ge i 8192 with hi | hi
    · have hsplit : i = 32 * (i / 32) + i % 32 := by omega
      rw [hsplit, (hget (i / 32)).2 _ (by omega), ht.get_cbits (by omega) (by omega)]
      split_ifs with hstored
      · rfl
      · have hwi := (hw (i / 32)).1
        rw [CodeTable.mem_present] at hstored
        refine (codeByte_of_length_le ?_).symm
        rw [t.length_codeOf]
        unfold ceilDiv at hwi
        omega
    · rw [Sparse.get_of_ge hcbits hi, Sparse.get_of_ge ht.cbits hi]
  calc t.stored w t.present CodeTable.empty
      = ⟨(t.stored w t.present CodeTable.empty).clen, (t.stored w t.present CodeTable.empty).cbits⟩ := rfl
    _ = t := by rw [hlens, hbytes]

end Clean

/-! ### Reading the text back -/

theorem readRecords_recordLines (t : CodeTable) {syms : List Nat} {low : Nat} {a : CodeTable}
    (hsyms : ∀ s ∈ syms, low ≤ s ∧ s < 256 ∧ 0 < t.len s) (hsorted : syms.Pairwise (· < ·)) :
    readRecords (syms.map (recordLine t)) low a = some (t.stored (fun s => ceilDiv (t.len s) 8) syms a) := by
  induction syms generalizing low a with
  | nil => rfl
  | cons s syms ih =>
    obtain ⟨⟨hlow, hs, hpos⟩, hrest⟩ := List.forall_mem_cons.1 hsyms
    obtain ⟨hlt, hsorted⟩ := List.pairwise_cons.1 hsorted
    have hlow' : low ≤ (t.record (ceilDiv (t.len s) 8) s).sym := hlow
    simp only [List.map_cons, readRecords, parseRecord_recordLine hs hpos, if_pos hlow']
    exact ih (fun u hu => ⟨hlt u hu, (hrest u hu).2⟩) hsorted

/-- The text is the count's line and the record lines, each ended by a line feed (R174). -/
theorem tableToText_eq (n : Nat) (t : CodeTable) :
    tableToText n t = (decimal n :: t.present.map (recordLine t)).flatMap fun l => l ++ ['\n'] := by
  have hfilter : ∀ syms : List Nat,
      (syms.flatMap fun s => if 0 < t.len s then recordLine t s ++ ['\n'] else []) =
        (syms.filter fun s => decide (0 < t.len s)).flatMap fun s => recordLine t s ++ ['\n'] := fun syms => by
    induction syms with
    | nil => rfl
    | cons s syms ih => by_cases hpos : 0 < t.len s <;> simp [hpos, ih]
  rw [tableToText, hfilter, List.flatMap_cons, List.flatMap_map, List.append_assoc, CodeTable.present]
  rfl

/-- The reader gives back what the writer wrote (R167). -/
theorem textToTable_tableToText {lenW n : Nat} {t : CodeTable} (hn : n < 2 ^ lenW) (ht : t.Clean) :
    textToTable lenW (tableToText n t) = .ok ⟨n, t⟩ := by
  have hplain : ∀ l ∈ decimal n :: t.present.map (recordLine t), '\n' ∉ l ∧ '\r' ∉ l := by
    refine List.forall_mem_cons.2 ⟨?_, fun l hl => ?_⟩
    · exact ⟨fun h => unbroken_decimal n _ h (by decide), fun h => unbroken_decimal n _ h (by decide)⟩
    · obtain ⟨s, -, rfl⟩ := List.mem_map.1 hl
      exact recordLine_plain t s
  have htail : dropEmptyTail (t.present.map (recordLine t)) = t.present.map (recordLine t) := by
    refine dropEmptyTail_of_ne_nil fun l hl => ?_
    obtain ⟨s, -, rfl⟩ := List.mem_map.1 hl
    simp [recordLine, hexField]
  have hrecords := readRecords_recordLines t (syms := t.present) (low := 0) (a := CodeTable.empty)
    (fun s hs => ⟨Nat.zero_le s, CodeTable.mem_present.1 hs⟩) (List.pairwise_lt_range.filter _)
  have hwidth : ∀ s, ceilDiv (t.len s) 8 ≤ ceilDiv (t.len s) 8 ∧ ceilDiv (t.len s) 8 ≤ 32 := fun s => by
    have hle := t.len_le s
    unfold ceilDiv
    omega
  rw [ht.stored_present hwidth] at hrecords
  simp only [textToTable, tableToText_eq, textLines_ended hplain, number_decimal, if_pos hn, htail, hrecords]

end Sys2Proof.Machine

/-! PROOFS. Decompress up to its decode command: what the host's writes load, and the named failures that the pre-checks
and the walk end in (R166, R169). -/

namespace Sys2Proof.Machine

open Sys2Proof.Claims

/-! ### Commands in a program -/

theorem decodeAside_withProgram (p : List HostStep) : DecodeAside (·.withProgram p) :=
  { err := fun _ => rfl, retire := fun _ => rfl, raise := fun _ _ => rfl, loseOutput := fun _ => rfl,
    input := fun _ => ⟨rfl, rfl, rfl, rfl⟩, output := fun _ _ _ => ⟨rfl, rfl⟩ }

section Bodies

variable (s : State) (p : List HostStep)

theorem swapBuffers_withProgram : swapBuffers (s.withProgram p) = (swapBuffers s).map (·.withProgram p) := by
  simp only [swapBuffers, apply_ite (Except.map _)]
  rfl

theorem cipherBuffer_withProgram (f : State → Nat → Byte → Byte) (hf : f (s.withProgram p) = f s) (b : BufSel) :
    cipherBuffer f b (s.withProgram p) = (cipherBuffer f b s).map (·.withProgram p) := by
  simp only [cipherBuffer, apply_ite (Except.map _), hf]
  cases b <;> rfl

theorem hashBuffer_withProgram (b : BufSel) :
    hashBuffer b (s.withProgram p) = (hashBuffer b s).map (·.withProgram p) := by
  simp only [hashBuffer, apply_ite (Except.map _)]
  cases b <;> rfl

theorem countFrequencies_withProgram :
    countFrequencies (s.withProgram p) = (countFrequencies s).map (·.withProgram p) := by
  simp only [countFrequencies, apply_ite (Except.map _)]
  rfl

theorem buildTree_withProgram : buildTree (s.withProgram p) = (buildTree s).map (·.withProgram p) := by
  simp only [buildTree_eq, builtTree, State.withProgram, Except.map]

theorem buildTrie_withProgram : buildTrie (s.withProgram p) = (buildTrie s).map (·.withProgram p) := by
  simp only [buildTrie, State.withProgram, Except.map]

theorem buildMap_withProgram : buildMap (s.withProgram p) = (buildMap s).map (·.withProgram p) := by
  simp only [buildMap, State.withProgram, Except.map]

theorem packBuffer_withProgram : packBuffer (s.withProgram p) = (packBuffer s).map (·.withProgram p) := by
  cases hfirst : firstNoCode s.table (s.ibuf.bytes s.ilen) 0 with
  | none =>
    simp only [packBuffer, State.withProgram, hfirst, apply_ite (Except.map _)]
    rfl
  | some i =>
    simp only [packBuffer, State.withProgram, hfirst, apply_ite (Except.map _)]
    rfl

end Bodies

/-- A command does not look at the program (R19). -/
theorem exec_withProgram {i : Instr} {s t : State} (h : exec i s = .next t) (p : List HostStep) :
    exec i (s.withProgram p) = .next (t.withProgram p) := by
  have hu := decodeAside_withProgram p
  cases i with
  | rst => cases h; rfl
  | nop => exact hu.command (body := .ok) (body' := .ok) rfl h
  | swap => exact hu.command (swapBuffers_withProgram s p) h
  | ciphf b => exact hu.command (cipherBuffer_withProgram s p _ rfl b) h
  | ciphi b => exact hu.command (cipherBuffer_withProgram s p _ rfl b) h
  | hash b => exact hu.command (hashBuffer_withProgram s p b) h
  | fcnt => exact hu.command (countFrequencies_withProgram s p) h
  | tbld => exact hu.command (buildTree_withProgram s p) h
  | cgen =>
    have hg : generateCodes (s.withProgram p) = generateCodes s := rfl
    obtain ⟨he, rfl⟩ | ⟨he, g, hgen, rfl⟩ := execCgen_cases h
    · rw [exec, execCgen, unlessStopped_stopped (s := t.withProgram p) he]
    · rw [exec, execCgen, unlessStopped_running (s := s.withProgram p) he, hg, hgen]
      rfl
  | pack => exact hu.outputCommand (packBuffer_withProgram s p) h
  | trie => exact hu.command (buildTrie_withProgram s p) h
  | mapb => exact hu.command (buildMap_withProgram s p) h
  | dect => exact hu.decode (loop := trieLoop) (loop' := trieLoop) (fun _ _ => rfl) h
  | decm => exact hu.decode (loop := mapLoop) (loop' := mapLoop) (fun _ _ => rfl) h

theorem runProgram_command {i : Instr} {s t : State} (h : exec i s = .next t) (p : List HostStep) :
    runProgram (commandStep i :: p) s = runProgram p t := by
  refine runProgram_cons ?_
  rw [commandStep, runHostStep, hostCmd, decode_encode]
  exact exec_withProgram h p

theorem runProgram_commands {is : List Instr} {s t : State} (h : runs is s t) (p : List HostStep) :
    runProgram (is.map commandStep ++ p) s = runProgram p t := by
  induction is generalizing s with
  | nil =>
    obtain rfl : s = t := h
    rfl
  | cons i is ih =>
    obtain ⟨u, hu, hrest⟩ := h
    exact (runProgram_command hu _).trans (ih hrest)

/-! ### The host's writes -/

/-- Byte after byte into a space. -/
def State.writeAll (sp : Space) : Nat → List Byte → State → State
  | _, [], s => s
  | i, b :: bs, s => State.writeAll sp (i + 1) bs (s.hostWrite sp.id i b.toNat)

theorem runProgram_writeEach (sp : Space) (bs : List Byte) (i : Nat) (p : List HostStep) (s : State) :
    runProgram (writeEach sp i bs ++ p) s = runProgram p (s.writeAll sp i bs) := by
  induction bs generalizing i s with
  | nil => rfl
  | cons b bs ih => rw [writeEach, List.cons_append, runProgram_write, ih, State.writeAll]

theorem State.writeAll_key (bs : List Byte) {i : Nat} {s : State} (hfit : i + bs.length ≤ s.cfg.keyBytes) :
    s.writeAll .key i bs = { s with key := s.key.writeBytes i bs } := by
  induction bs generalizing i s with
  | nil => rfl
  | cons b bs ih =>
    rw [List.length_cons] at hfit
    have hstep : s.hostWrite Space.key.id i b.toNat = { s with key := s.key.write i b } := by
      rw [State.hostWrite_of_lt _ (Space.ofId_id .key) (show i < s.cfg.keyBytes by omega), State.setElement,
        BitVec.ofNat_toNat, BitVec.setWidth_eq]
    rw [State.writeAll, hstep, ih (by dsimp; omega), Memory.writeBytes]

theorem State.writeAll_cbits (u : Nat) (bs : List Byte) {j : Nat} {s : State} (hfit : 32 * u + j + bs.length ≤ 8192) :
    s.writeAll .cbits (32 * u + j) bs =
      { s with table := ⟨s.table.clen, storeCodeBytes u (bs.map BitVec.toNat) j s.table.cbits⟩ } := by
  induction bs generalizing j s with
  | nil => rfl
  | cons b bs ih =>
    rw [List.length_cons] at hfit
    rw [State.writeAll, State.hostWrite_of_lt _ (Space.ofId_id .cbits) (show 32 * u + j < 8192 by omega),
      State.setElement, Nat.add_assoc, ih (by omega)]
    rfl

/-- The writes of `SetCode` store a record of all 32 bytes (R40, R87). -/
theorem runProgram_codeSteps (t : CodeTable) {u : Nat} (hu : u < 256) (p : List HostStep) (s : State) :
    runProgram (codeSteps u (t.codeOf u) ++ p) s =
      runProgram p { s with table := storeRecord s.table (t.record 32 u) } := by
  rw [codeSteps, List.cons_append, runProgram_write, runProgram_writeEach,
    State.hostWrite_of_lt _ (Space.ofId_id .clen) (show u < 256 from hu), State.setElement, t.length_codeOf,
    show 32 * u = 32 * u + 0 from rfl, State.writeAll_cbits u _ (by simp; omega), List.map_map]
  rfl

/-- Writing the Codes of the Symbols `syms` of `t` stores their records (R166). -/
theorem runProgram_codes (t : CodeTable) {syms : List Nat} (hsyms : ∀ u ∈ syms, u < 256) (p : List HostStep)
    (s : State) :
    runProgram ((syms.flatMap fun u => if 0 < t.len u then codeSteps u (t.codeOf u) else []) ++ p) s =
      runProgram p
        { s with table := t.stored (fun _ => 32) (syms.filter fun u => decide (0 < t.len u)) s.table } := by
  induction syms generalizing s with
  | nil => rfl
  | cons u syms ih =>
    obtain ⟨hu, hsyms⟩ := List.forall_mem_cons.1 hsyms
    rw [List.flatMap_cons, List.append_assoc]
    by_cases hpos : 0 < t.len u
    · rw [if_pos hpos, runProgram_codeSteps t hu, ih hsyms, List.filter_cons_of_pos (by simpa using hpos)]
      rfl
    · rw [if_neg hpos, List.nil_append, ih hsyms, List.filter_cons_of_neg (by simpa using hpos)]

/-- The state with count and table loaded (R166). -/
def State.withImage (s : State) (t : TableImage) : State := { s with nsym := t.nsym, table := t.table }

/-- Writing a table loads it, where there was none (R166). -/
theorem runProgram_loadTable {n : Nat} {t : CodeTable} (ht : t.Clean) {s : State} (hn : n < 2 ^ s.cfg.lenW)
    (hs : s.table = CodeTable.empty) (p : List HostStep) :
    runProgram (loadTableSteps ⟨n, t⟩ ++ p) s = runProgram p (s.withImage ⟨n, t⟩) := by
  have hwidth : ∀ u, ceilDiv (t.len u) 8 ≤ 32 ∧ 32 ≤ 32 := fun u => by
    have hle := t.len_le u
    unfold ceilDiv
    omega
  rw [loadTableSteps, List.cons_append, runProgram_registerStep, runProgram_codes t fun u hu => List.mem_range.1 hu,
    State.writeReg, trunc_of_lt hn]
  simp only [hs]
  rw [← CodeTable.present, ht.stored_present hwidth]
  rfl

/-- The state with the key loaded, if the cipher is requested (R87, R166). -/
def State.keyed (s : State) : Option (List Byte) → State
  | none => s
  | some k => { s with key := s.key.writeBytes 0 k, klen := BitVec.ofNat 16 k.length }

theorem runProgram_keySteps {cipher : Option (List Byte)} {s : State}
    (hfit : ∀ k, cipher = some k → k.length ≤ s.cfg.keyBytes) (p : List HostStep) :
    runProgram (keySteps cipher ++ p) s = runProgram p (s.keyed cipher) := by
  cases cipher with
  | none => rfl
  | some k =>
    rw [keySteps, Statement.steps, List.append_assoc, List.singleton_append, runProgram_writeEach,
      State.writeAll_key k (by rw [Nat.zero_add]; exact hfit k rfl), runProgram_registerStep]
    rfl

/-- The state with the bytes loaded into IBUF (R87). -/
def State.withInput (s : State) (bs : List Byte) : State :=
  { s with ibuf := s.ibuf.writeBytes 0 bs, ilen := bs.length }

/-- `.ibuf` in front of a program (R87). -/
theorem runProgram_ibuf_append {bs : List Byte} {s : State} (hc : s.cfg.wellFormed = true)
    (hfit : bs.length ≤ s.cfg.bufBytes) (p : List HostStep) : runProgram ((Statement.ibuf bs).steps ++ p) s =
      runProgram p (s.withInput bs) := by
  rw [Statement.steps, List.append_assoc, List.singleton_append,
    runProgram_writeEach_ibuf _ _ _ _ (by rw [Nat.zero_add]; exact hfit), runProgram_registerStep, State.writeReg,
    trunc_of_lt (hfit.trans_lt (Config.bufBytes_lt hc)), State.withInput]

/-! ### Decompress up to its commands -/

/-- The state in which Decompress issues its build command: reset, with table, count, payload and key loaded (R166). -/
def State.loaded (s : State) (t : TableImage) (payload : List Byte) (cipher : Option (List Byte)) : State :=
  ((s.clearAll.withImage t).withInput payload).keyed cipher

theorem State.loaded_fields (s : State) (t : TableImage) (payload : List Byte) (cipher : Option (List Byte)) :
    (s.loaded t payload cipher).err = 0#8 ∧ (s.loaded t payload cipher).cfg = s.cfg ∧
      (s.loaded t payload cipher).nsym = t.nsym ∧ (s.loaded t payload cipher).ilen = payload.length ∧
      (s.loaded t payload cipher).table = t.table := by
  cases cipher <;> exact ⟨rfl, rfl, rfl, rfl, rfl⟩

theorem runProgram_decompressProgram {s : State} {n : Nat} {t : CodeTable} {payload : List Byte}
    {cipher : Option (List Byte)} (hc : s.cfg.wellFormed = true) (hn : n < 2 ^ s.cfg.lenW) (ht : t.Clean)
    (hpayload : payload.length ≤ s.cfg.bufBytes) (hkey : ∀ k, cipher = some k → k.length ≤ s.cfg.keyBytes)
    (d : Strategy) :
    runProgram (decompressProgram ⟨n, t⟩ payload cipher d) s =
      runProgram (d.commands.map commandStep ++ ifCiphered cipher (.ciphi .output))
        (s.loaded ⟨n, t⟩ payload cipher) := by
  have hrst : exec .rst s = .next s.clearAll := rfl
  simp only [decompressProgram, List.append_assoc, List.cons_append, List.nil_append]
  rw [runProgram_command hrst, runProgram_loadTable ht (s := s.clearAll) hn rfl,
    runProgram_ibuf_append (s := s.clearAll.withImage ⟨n, t⟩) hc hpayload]
  exact runProgram_keySteps (s := (s.clearAll.withImage ⟨n, t⟩).withInput payload) hkey _

/-- Whatever DECT answers after TRIE, both strategies answer it in ERR and EINFO (R131, R166). -/
theorem Strategy.exists_runs_commands (d : Strategy) {s t : State} (he : s.err = 0#8)
    (h : exec .dect s.trieBuilt = .next t) :
    ∃ t' : State, runs d.commands s t' ∧ t'.err = t.err ∧ t'.einfo = t.einfo := by
  cases d with
  | trie => exact ⟨t, ⟨s.trieBuilt, exec_trie he, t, h, rfl⟩, rfl, rfl⟩
  | map => exact ⟨_, ⟨s.mapBuilt, exec_mapb he, _, exec_decm_mapBuilt h, rfl⟩, rfl, rfl⟩

/-- In error-stop the inverse cipher at the end is dropped (R166, R198). -/
theorem runProgram_ifCiphered_stopped (cipher : Option (List Byte)) {s : State} (he : s.err ≠ 0#8) :
    runProgram (ifCiphered cipher (.ciphi .output)) s = .next (s.withProgram []) := by
  cases cipher with
  | none => rfl
  | some k =>
    obtain ⟨t, ht⟩ := exec_total (i := .ciphi .output) (by decide) s
    obtain rfl := exec_stopped he (by decide) ht
    exact runProgram_command ht []

/-- A fault of the decode command is the failure of Decompress (R166, R169). -/
theorem decompress_of_fault {s : State} {n : Nat} {t : CodeTable} {payload : List Byte} {cipher : Option (List Byte)}
    (hc : s.cfg.wellFormed = true) (hn : n < 2 ^ s.cfg.lenW) (ht : t.Clean)
    (hpayload : payload.length ≤ s.cfg.bufBytes) (hkey : ∀ k, cipher = some k → k.length ≤ s.cfg.keyBytes)
    (d : Strategy) {c : Cause} {info : Nat} (hinfo : info < 2 ^ s.cfg.lenW)
    (hfault : exec .dect (s.loaded ⟨n, t⟩ payload cipher).trieBuilt =
      .next (outputFaulted (s.loaded ⟨n, t⟩ payload cipher).trieBuilt c.code info)) :
    decompress s (tableToText n t) payload cipher d = .error (c.failure info) := by
  obtain ⟨he, hcfg, -⟩ := s.loaded_fields ⟨n, t⟩ payload cipher
  obtain ⟨v, hruns, herr, heinfo⟩ := d.exists_runs_commands he hfault
  have hcode : v.err = c.code := herr
  have hv : v.einfo = info := by
    rw [heinfo]
    refine Nat.mod_eq_of_lt ?_
    rw [← hcfg] at hinfo
    exact hinfo
  have hstop : v.err ≠ 0#8 := by
    rw [hcode]
    cases c <;> decide
  rw [decompress_text (textToTable_tableToText hn ht), runProgram_decompressProgram hc hn ht hpayload hkey,
    runProgram_commands hruns, runProgram_ifCiphered_stopped cipher hstop,
    endOfRun_fault (t := v.withProgram []) hcode, State.einfo_withProgram, hv]
  rfl

/-- In the trie of a table without a Code nothing is found. -/
theorem trieFind_trieBelow_of_no_code {t : CodeTable} (h : ∀ s, s < 256 → t.len s = 0) (c : BitString) :
    trieFind (trieBelow t 256).nodes c = none := by
  refine Option.eq_none_iff_forall_not_mem.2 fun sym hsym => ?_
  obtain ⟨hpos, -⟩ := (trieFind_trieBelow t c sym).1 hsym
  exact absurd (h sym.toNat sym.isLt) hpos.ne'

/-- Settles O56: the text's failure is the reader's, and the others are what DECT's pre-checks and walk raise. -/
theorem decompressFailsByName : Obligations.DecompressFailsByName := by
  unfold Obligations.DecompressFailsByName
  intro u payload cipher d hc hpayload hkey
  refine ⟨fun text htext => decompress_textError htext payload cipher d, fun n t hn hclen hcbits hpadding => ?_⟩
  have ht : t.Clean := ⟨hclen, hcbits, hpadding⟩
  obtain ⟨he, hcfg, hnsym, hilen, htable⟩ := u.loaded_fields ⟨n, t⟩ payload cipher
  have hfail : ∀ (c : Cause) {info : Nat}, info < 2 ^ u.cfg.lenW → _ := fun c {_} hinfo =>
    decompress_of_fault (c := c) hc hn ht hpayload hkey d hinfo
  generalize u.loaded ⟨n, t⟩ payload cipher = v at *
  replace hnsym : v.trieBuilt.nsym = n := hnsym
  replace hilen : v.trieBuilt.ilen = payload.length := hilen
  replace hcfg : v.trieBuilt.cfg = u.cfg := hcfg
  obtain ⟨-, -, hformat, hovf⟩ := decodeWith_preChecks (s := v.trieBuilt) trieLoop he
  rw [hnsym, hilen, hcfg] at hformat hovf
  refine ⟨fun hlong => ?_, fun hfits hbig => ?_, fun hpos hfits hroom hnone => ?_⟩
  · exact hfail .format hn (hformat (by omega) hpayload hlong)
  · exact hfail .ovf hn (hovf (by omega) hpayload hfits hbig)
  · have hdecodable : decodable v.trieBuilt :=
      ⟨he, hcfg ▸ hc, by omega, by rwa [hilen, hcfg], by rwa [hnsym, hilen], by rwa [hnsym, hcfg]⟩
    refine hfail .walk (Nat.two_pow_pos _) (decodeWith_walkFails (loop := trieLoop) hdecodable ?_)
    rw [trieLoop_eq, State.trie_trieBuilt, htable]
    exact decodeFind_hopeless (fun k _ _ => trieFind_trieBelow_of_no_code hnone _) hdecodable.2.2.1.ne'

end Sys2Proof.Machine

/-! PROOFS. HASH writes the fold of R140, and one changed byte changes it (R142); the ciphers work on a buffer in place
(R144, R145), undo each other (R146), and CIPHF undoes itself exactly in the cases of R147. -/

namespace Sys2Proof.Machine

open Sys2Proof.Claims

/-! ### HASH -/

/-- HASH where the length is in range (R140). -/
theorem exec_hash {s : State} {b : BufSel} (he : s.err = 0#8) (hlen : s.len b ≤ s.cfg.bufBytes) :
    exec (.hash b) s = .next (s.setHash (contentHash s.cfg ((s.buf b).bytes (s.len b))) b).retire :=
  command_ok he (by rw [hashBuffer, if_neg hlen.not_gt])

/-- Settles O23: the body checks the length and then folds over the valid bytes. -/
theorem hashWritesTheDigest : Obligations.HashWritesTheDigest := by
  unfold Obligations.HashWritesTheDigest
  intro s b he
  refine ⟨fun hlen => ?_, fun hlen => ?_⟩
  · exact command_error he (r := ⟨.len, s.len b⟩) (by rw [hashBuffer, if_pos hlen])
  · cases b <;> exact exec_hash he hlen

/-! ### One changed byte -/

theorem Config.odd_hashMult {c : Config} (h : c.wellFormed = true) : Odd c.hashMult.toNat := by
  simp only [Config.wellFormed, Bool.and_eq_true, BitVec.getLsbD, Nat.testBit_zero, decide_eq_true_eq] at h
  exact Nat.odd_iff.2 h.2

/-- Multiplying by an odd word loses nothing modulo a power of two. -/
theorem mul_odd_injective {w : Nat} {m : BitVec w} (hm : Odd m.toNat) : Function.Injective (· * m) := by
  intro x y h
  have hmod : x.toNat * m.toNat ≡ y.toNat * m.toNat [MOD 2 ^ w] := by
    simpa only [BitVec.toNat_mul, Nat.ModEq] using congrArg BitVec.toNat h
  have hcoprime : Nat.gcd (2 ^ w) m.toNat = 1 := (Nat.coprime_two_left.2 hm).pow_left w
  exact BitVec.eq_of_toNat_eq
    ((Nat.ModEq.cancel_right_of_coprime hcoprime hmod).eq_of_lt_of_lt x.isLt y.isLt)

section Step

variable {c : Config} (hc : c.wellFormed = true)
include hc

/-- Different accumulators stay different when they take the same byte. -/
theorem hashStep_injective_accumulator (b : Byte) : Function.Injective (hashStep c · b) := fun _ _ h =>
  (BitVec.xor_left_inj _).1 (mul_odd_injective (Config.odd_hashMult hc) h)

/-- Different bytes make an accumulator different. -/
theorem hashStep_injective_byte (h : BitVec 64) : Function.Injective (hashStep c h) := fun x y hxy => by
  have hwide : x.setWidth 64 = y.setWidth 64 :=
    (BitVec.xor_right_inj _).1 (mul_odd_injective (Config.odd_hashMult hc) hxy)
  simpa using congrArg (BitVec.setWidth 8) hwide

end Step

theorem Memory.bytes_succ (m : Memory) (n : Nat) : m.bytes (n + 1) = m.bytes n ++ [m.read n] := by
  simp [Memory.bytes, List.range_succ]

theorem Memory.bytes_congr {m m' : Memory} {n : Nat} (h : ∀ i, i < n → m.read i = m'.read i) : m.bytes n = m'.bytes n :=
  List.map_congr_left fun i hi => h i (List.mem_range.1 hi)

theorem contentHash_bytes_succ (c : Config) (m : Memory) (n : Nat) :
    contentHash c (m.bytes (n + 1)) = hashStep c (contentHash c (m.bytes n)) (m.read n) := by
  simp [contentHash, Memory.bytes_succ]

/-- The accumulators part at the changed byte and do not meet again (R142). -/
theorem contentHash_ne_of_one_byte {c : Config} (hc : c.wellFormed = true) {m m' : Memory} {k n : Nat} (hk : k < n)
    (hne : m.read k ≠ m'.read k) (heq : ∀ i, i < n → i ≠ k → m.read i = m'.read i) :
    contentHash c (m.bytes n) ≠ contentHash c (m'.bytes n) := by
  induction n with
  | zero => exact absurd hk k.not_lt_zero
  | succ n ih =>
    rw [contentHash_bytes_succ, contentHash_bytes_succ]
    obtain hlt | rfl := Nat.lt_succ_iff_lt_or_eq.1 hk
    · rw [heq n n.lt_succ_self hlt.ne']
      exact (hashStep_injective_accumulator hc _).ne (ih hlt fun i hi => heq i (hi.trans n.lt_succ_self))
    · rw [Memory.bytes_congr fun i hi => heq i (hi.trans k.lt_succ_self) hi.ne]
      exact (hashStep_injective_byte hc _).ne hne

/-- Settles O24: HASH 0 leaves in HASH0 the digests of the two inputs. -/
theorem hashSeesOneChangedByte : Obligations.HashSeesOneChangedByte := by
  unfold Obligations.HashSeesOneChangedByte
  intro s u s' u' k hes heu hcfg hc hilen hlen hk hne heq hs hu
  cases hs.symm.trans (exec_hash hes hlen)
  cases hu.symm.trans (exec_hash heu (show u.ilen ≤ u.cfg.bufBytes from hilen ▸ hcfg ▸ hlen))
  change contentHash s.cfg (s.ibuf.bytes s.ilen) ≠ contentHash u.cfg (u.ibuf.bytes u.ilen)
  rw [← hcfg, ← hilen]
  exact contentHash_ne_of_one_byte hc hk hne heq

/-! ### A cipher command -/

/-- The state in which a cipher command over `BUF(b)` runs without a fault (R144, R145). -/
structure Cipherable (b : BufSel) (s : State) : Prop where
  err : s.err = 0#8
  len : s.len b ≤ s.cfg.bufBytes
  klen : s.klen.toNat ≤ s.cfg.keyBytes

/-- The state such a command leaves, `f` being the cipher's effect on a byte. -/
def State.ciphered (f : State → Nat → Byte → Byte) (b : BufSel) (s : State) : State :=
  (s.setBuf ((s.buf b).writeBytes 0 ((List.range (s.len b)).map fun i => f s i ((s.buf b).read i))) b).retire

section Cipher

variable {f : State → Nat → Byte → Byte} {b : BufSel} {s : State}

theorem command_cipherBuffer (h : Cipherable b s) : command (cipherBuffer f b) s = .next (s.ciphered f b) :=
  command_ok h.err (by rw [cipherBuffer, if_neg h.len.not_gt, if_neg h.klen.not_gt])

theorem command_cipherBuffer_bufferOver (he : s.err = 0#8) (hlen : s.cfg.bufBytes < s.len b) :
    command (cipherBuffer f b) s = .next (faulted s 2#8 (s.len b)) :=
  command_error he (r := ⟨.len, s.len b⟩) (by rw [cipherBuffer, if_pos hlen])

theorem command_cipherBuffer_keyOver (he : s.err = 0#8) (hlen : s.len b ≤ s.cfg.bufBytes)
    (hkey : s.cfg.keyBytes < s.klen.toNat) : command (cipherBuffer f b) s = .next (faulted s 2#8 s.klen.toNat) :=
  command_error he (r := ⟨.len, s.klen.toNat⟩) (by rw [cipherBuffer, if_neg hlen.not_gt, if_pos hkey])

@[simp] theorem State.err_ciphered : (s.ciphered f b).err = s.err := by simp [ciphered]
@[simp] theorem State.cfg_ciphered : (s.ciphered f b).cfg = s.cfg := by simp [ciphered]
@[simp] theorem State.klen_ciphered : (s.ciphered f b).klen = s.klen := by simp [ciphered]
@[simp] theorem State.key_ciphered : (s.ciphered f b).key = s.key := by simp [ciphered]
@[simp] theorem State.len_ciphered : (s.ciphered f b).len b = s.len b := by simp [ciphered]

theorem Cipherable.ciphered (h : Cipherable b s) : Cipherable b (s.ciphered f b) :=
  ⟨by simpa using h.err, by simpa using h.len, by simpa using h.klen⟩

theorem State.read_ciphered_of_lt {i : Nat} (hi : i < s.len b) :
    ((s.ciphered f b).buf b).read i = f s i ((s.buf b).read i) := by
  simp [ciphered, Memory.read_writeBytes, hi]

theorem State.read_ciphered_of_ge {i : Nat} (hi : s.len b ≤ i) :
    ((s.ciphered f b).buf b).read i = (s.buf b).read i := by
  simp [ciphered, Memory.read_writeBytes, hi]

/-- Each valid byte takes the cipher's effect, and nothing else but CCNT changes (R144, R145). -/
theorem command_cipherBuffer_inPlace : Cipherable b s → ∃ t, command (cipherBuffer f b) s = .next t ∧
    (∀ i, i < s.len b → (t.buf b).read i = f s i ((s.buf b).read i)) ∧
    (∀ i, s.len b ≤ i → (t.buf b).read i = (s.buf b).read i) ∧
    t = match b with
      | .input => { s with ibuf := t.ibuf, ccnt := s.ccnt + 1#32 }
      | .output => { s with obuf := t.obuf, ccnt := s.ccnt + 1#32 } := by
  intro h
  refine ⟨_, command_cipherBuffer h, fun _ => State.read_ciphered_of_lt, fun _ => State.read_ciphered_of_ge, ?_⟩
  cases b <;> rfl

end Cipher

/-- Settles O25: both lengths are checked before a byte is written. -/
theorem ciphfTransformsInPlace : Obligations.CiphfTransformsInPlace := by
  unfold Obligations.CiphfTransformsInPlace
  intro s b he
  exact ⟨command_cipherBuffer_bufferOver he, command_cipherBuffer_keyOver he, fun hlen hkey =>
    command_cipherBuffer_inPlace (f := cipherForward) ⟨he, hlen, hkey⟩⟩

/-- Settles O26: CIPHI differs from CIPHF in its effect on a byte alone. -/
theorem ciphiTransformsInPlace : Obligations.CiphiTransformsInPlace := by
  unfold Obligations.CiphiTransformsInPlace
  intro s b he
  exact ⟨command_cipherBuffer_bufferOver he, command_cipherBuffer_keyOver he, fun hlen hkey =>
    command_cipherBuffer_inPlace (f := cipherInverse) ⟨he, hlen, hkey⟩⟩

/-! ### Two cipher commands -/

section Twice

variable {f g : State → Nat → Byte → Byte} {b : BufSel} {s : State}

/-- The cipher's effect on a byte depends on the parameters, KLEN and KEY, which no cipher command writes (R77). -/
@[simp] theorem cipherForward_ciphered (i : Nat) (v : Byte) :
    cipherForward (s.ciphered f b) i v = cipherForward s i v := by
  simp [cipherForward, xorKey]

@[simp] theorem cipherInverse_ciphered (i : Nat) (v : Byte) :
    cipherInverse (s.ciphered f b) i v = cipherInverse s i v := by
  simp [cipherInverse, xorKey]

theorem xorKey_xorKey (s : State) (i : Nat) (v : Byte) : xorKey s i (xorKey s i v) = v := by
  simp [xorKey]

theorem cipherInverse_cipherForward (s : State) (i : Nat) (v : Byte) :
    cipherInverse s i (cipherForward s i v) = v := by
  unfold cipherInverse cipherForward
  split_ifs
  · exact BitVec.add_sub_cancel v _
  · exact xorKey_xorKey s i v

theorem cipherForward_cipherInverse (s : State) (i : Nat) (v : Byte) :
    cipherForward s i (cipherInverse s i v) = v := by
  unfold cipherInverse cipherForward
  split_ifs
  · exact BitVec.sub_add_cancel v _
  · exact xorKey_xorKey s i v

/-- Adding twice returns a byte exactly when twice the addend is 0 modulo 256 (R147). -/
theorem add_add_eq_self_iff (v k : Byte) : v + k + k = v ↔ k = 0#8 ∨ k = 128#8 := by
  bv_omega

theorem cipherForward_cipherForward_iff (s : State) (i : Nat) (v : Byte) :
    cipherForward s i (cipherForward s i v) = v ↔ s.klen ≠ 0#16 ∨ s.cfg.addK = 0#8 ∨ s.cfg.addK = 128#8 := by
  unfold cipherForward
  split_ifs with hkeyless
  · simpa [hkeyless] using add_add_eq_self_iff v s.cfg.addK
  · simp [hkeyless, xorKey_xorKey]

theorem State.read_ciphered_ciphered_of_lt {i : Nat} (hi : i < s.len b) :
    (((s.ciphered f b).ciphered g b).buf b).read i = g (s.ciphered f b) i (f s i ((s.buf b).read i)) := by
  rw [read_ciphered_of_lt (by simpa using hi), read_ciphered_of_lt hi]

theorem State.read_ciphered_ciphered_of_ge {i : Nat} (hi : s.len b ≤ i) :
    (((s.ciphered f b).ciphered g b).buf b).read i = (s.buf b).read i := by
  rw [read_ciphered_of_ge (by simpa using hi), read_ciphered_of_ge hi]

/-- Every byte is restored if the effect of the second command on a valid byte undoes that of the first. -/
theorem State.read_ciphered_ciphered (h : ∀ i v, g (s.ciphered f b) i (f s i v) = v) (i : Nat) :
    (((s.ciphered f b).ciphered g b).buf b).read i = (s.buf b).read i := by
  rcases Nat.lt_or_ge i (s.len b) with hi | hi
  · rw [read_ciphered_ciphered_of_lt hi, h]
  · exact read_ciphered_ciphered_of_ge hi

/-- Two cipher commands in a row meet no fault if the first meets none. -/
theorem Cipherable.runs_two (h : Cipherable b s) {c d : Instr} (hc : exec c = command (cipherBuffer f b))
    (hd : exec d = command (cipherBuffer g b)) : runs [c, d] s ((s.ciphered f b).ciphered g b) :=
  ⟨_, hc ▸ command_cipherBuffer h, _, hd ▸ command_cipherBuffer h.ciphered, rfl⟩

end Twice

/-- Settles O27: on each byte the two ciphers undo each other, in either order. -/
theorem cipherInverseLaw : Obligations.CipherInverseLaw := by
  unfold Obligations.CipherInverseLaw
  intro s b he hlen hkey
  have h : Cipherable b s := ⟨he, hlen, hkey⟩
  refine ⟨⟨_, h.runs_two rfl rfl, h.ciphered.ciphered.err, ?_⟩, ⟨_, h.runs_two rfl rfl, h.ciphered.ciphered.err, ?_⟩⟩
  · exact State.read_ciphered_ciphered fun i v => by rw [cipherInverse_ciphered, cipherInverse_cipherForward]
  · exact State.read_ciphered_ciphered fun i v => by rw [cipherForward_ciphered, cipherForward_cipherInverse]

/-- Settles O28: byte 0 is valid, and shows whether CIPHF undoes itself. -/
theorem literalInvolution : Obligations.LiteralInvolution := by
  unfold Obligations.LiteralInvolution
  intro s b he hpos hlen hkey
  have h : Cipherable b s := ⟨he, hlen, hkey⟩
  refine ⟨_, h.runs_two rfl rfl, h.ciphered.ciphered.err, fun hall => ?_, fun hself => ?_⟩
  · have hfirst := hall 0
    rw [State.read_ciphered_ciphered_of_lt hpos, cipherForward_ciphered] at hfirst
    exact (cipherForward_cipherForward_iff s 0 _).1 hfirst
  · exact State.read_ciphered_ciphered fun i v => by
      rw [cipherForward_ciphered, (cipherForward_cipherForward_iff s i v).2 hself]

end Sys2Proof.Machine

/-! PROOFS. The control commands: NOP counts and does nothing else (R155), RST leaves the byte memories alone (R156), and
SWAP exchanges the buffers with their lengths (R158). -/

namespace Sys2Proof.Machine

open Sys2Proof.Claims

/-! ### NOP and RST -/

/-- Error-stop drops a command whatever its body does (R198). -/
theorem command_stopped {body : State → Except Raised State} {s : State} (he : s.err ≠ 0#8) :
    command body s = .next s :=
  unlessStopped_stopped he

/-- Settles O18: NOP's body answers the state it was given, and error-stop drops the command before the body runs. -/
theorem nopOnlyCounts : Obligations.NopOnlyCounts := by
  unfold Obligations.NopOnlyCounts
  intro s
  constructor
  · exact fun he => command_ok (body := .ok) he rfl
  · exact fun he => command_stopped (body := .ok) he

/-- No row of the opcode map takes RST's word with bit 0 set (R82, R84). -/
theorem exists_decode_rst_bit_zero_error : ∃ r, decode 0x0101#16 = .error r := ⟨_, rfl⟩

/-- Settles O19: RST is the reset state with the byte memories and the host's part put back, and the rest is said by the
laws of error-stop, of the decoder and of illegal words. -/
theorem rstClearsAllButTheByteMemories : Obligations.RstClearsAllButTheByteMemories := by
  unfold Obligations.RstClearsAllButTheByteMemories
  refine ⟨fun s => rfl, fun i s t => exec_stopped, fun w => decode_eq_ok_iff, exists_decode_rst_bit_zero_error,
    fun s rest he hp => ?_⟩
  obtain ⟨r, hr⟩ := exists_decode_rst_bit_zero_error
  exact (illegalWordRaises s 0x0101#16 rest r hp hr).2 he

/-! ### SWAP -/

/-- SWAP where ILEN is over the capacity (R158). -/
theorem exec_swap_over {s : State} (he : s.err = 0#8) (hlen : s.cfg.bufBytes < s.ilen) :
    exec .swap s = .next (faulted s 2#8 s.ilen) :=
  command_error he (r := ⟨.len, s.ilen⟩) (by rw [swapBuffers, if_pos hlen])

/-- The second exchange undoes the first, so that of the two commands only the count is left. -/
theorem State.swapped_swapped (s : State) : s.swapped.swapped = { s with ccnt := s.ccnt + 2#32 } := by
  have hcount : s.ccnt + 1#32 + 1#32 = s.ccnt + 2#32 := BitVec.add_assoc s.ccnt 1#32 1#32
  simp [swapped, retire, hcount]

/-- Settles O22: the first SWAP makes OLEN the new ILEN, so the second needs OLEN in range. -/
theorem swapExchangesTheBuffers : Obligations.SwapExchangesTheBuffers := by
  unfold Obligations.SwapExchangesTheBuffers
  refine fun s he => ⟨exec_swap_over he, exec_swap he, fun hilen holen => ?_⟩
  exact ⟨s.swapped, exec_swap he hilen, s.swapped.swapped, exec_swap (s := s.swapped) he holen, s.swapped_swapped⟩

end Sys2Proof.Machine

/-! PROOFS. The host pipeline: what the text's writer wrote is read back (R167), and Decompress undoes Compress whatever
the two blocks held before, with the digests and the tags of R165, R178 and R179. -/

namespace Sys2Proof.Machine

open Sys2Proof.Claims

/-- Settles O54: the premises say that the table is clean. -/
theorem textReaderInvertsTheWriter : Obligations.TextReaderInvertsTheWriter := by
  unfold Obligations.TextReaderInvertsTheWriter
  exact fun lenW n t hn hclen hcbits hpadding => textToTable_tableToText hn ⟨hclen, hcbits, hpadding⟩

/-! ### What a run of commands leaves alone -/

/-- Neither RST nor HASH 0 among the commands: the parameters, the key and HASH0 stay (R77). -/
theorem runs_framed {is : List Instr} {s t : State} (h : runs is s t) (hno : ∀ i ∈ is, i ∉ [.rst, .hash .input]) :
    t.cfg = s.cfg ∧ t.key = s.key ∧ t.klen = s.klen ∧ t.hash0 = s.hash0 := by
  induction is generalizing s with
  | nil =>
    obtain rfl : s = t := h
    exact ⟨rfl, rfl, rfl, rfl⟩
  | cons i is ih =>
    obtain ⟨u, hu, hrest⟩ := h
    obtain ⟨hi, his⟩ := List.forall_mem_cons.1 hno
    obtain ⟨⟨hcfg, hkey, -, -⟩, -, -, -, hklen, -, -, -, -, hhash, -⟩ := exec_framed hu
    obtain ⟨hcfg', hkey', hklen', hhash'⟩ := ih hrest his
    exact ⟨hcfg'.trans hcfg, hkey'.trans hkey, hklen'.trans (hklen fun hrst => hi (by simp [hrst])),
      hhash'.trans (hhash hi)⟩

/-! ### Memories read back -/

theorem Memory.bytes_writeBytes (m : Memory) (bs : List Byte) : (m.writeBytes 0 bs).bytes bs.length = bs := by
  refine List.ext_getElem (Memory.length_bytes _ _) fun i _ hi => ?_
  simp [Memory.bytes, Memory.read_writeBytes, hi]

/-- The stream depends on the bytes alone (R15). -/
theorem streamBits_eq_of_bytes_eq {m m' : Memory} {n : Nat} (h : m.bytes n = m'.bytes n) :
    streamBits m n = streamBits m' n := by
  refine List.map_congr_left fun p hp => ?_
  have hp : p / 8 < n := by
    have := List.mem_range.1 hp
    omega
  have hread : m.read (p / 8) = m'.read (p / 8) := List.map_inj_left.1 h _ (List.mem_range.2 hp)
  rw [streamBit, streamBit, hread]

/-! ### The cipher on a sequence -/

/-- The bytes that a cipher command makes of `bs`, if the cipher is requested; `f` is the cipher's effect on a byte. -/
def cipherIf (cipher : Option (List Byte)) (f : Nat → Byte → Byte) (bs : List Byte) : List Byte :=
  match cipher with
  | none => bs
  | some _ => bs.mapIdx f

theorem length_cipherIf (cipher : Option (List Byte)) (f : Nat → Byte → Byte) (bs : List Byte) :
    (cipherIf cipher f bs).length = bs.length := by
  cases cipher with
  | none => rfl
  | some _ => exact List.length_mapIdx

theorem cipherIf_cipherIf {cipher : Option (List Byte)} {f g : Nat → Byte → Byte} (h : ∀ i v, g i (f i v) = v)
    (bs : List Byte) : cipherIf cipher g (cipherIf cipher f bs) = bs := by
  cases cipher with
  | none => rfl
  | some _ => exact List.ext_getElem (by simp [cipherIf]) fun i _ _ => by simp [cipherIf, h]

/-- The state a cipher command leaves, if the cipher is requested. -/
def State.cipheredIf (cipher : Option (List Byte)) (f : State → Nat → Byte → Byte) (b : BufSel) (s : State) : State :=
  match cipher with
  | none => s
  | some _ => s.ciphered f b

section CipheredIf

variable {cipher : Option (List Byte)} {f : State → Nat → Byte → Byte} {b : BufSel} {s : State}

theorem runProgram_ifCiphered (h : Cipherable b s) {i : Instr} (hi : exec i = command (cipherBuffer f b))
    (p : List HostStep) :
    runProgram (ifCiphered cipher i ++ p) s = runProgram p (s.cipheredIf cipher f b) := by
  cases cipher with
  | none => rfl
  | some _ => exact runProgram_command (hi ▸ command_cipherBuffer h) p

@[simp] theorem State.err_cipheredIf : (s.cipheredIf cipher f b).err = s.err := by
  cases cipher <;> simp [cipheredIf]
@[simp] theorem State.cfg_cipheredIf : (s.cipheredIf cipher f b).cfg = s.cfg := by
  cases cipher <;> simp [cipheredIf]
@[simp] theorem State.ilen_cipheredIf : (s.cipheredIf cipher f b).ilen = s.ilen := by
  cases cipher <;> simp [cipheredIf, ciphered]
@[simp] theorem State.olen_cipheredIf : (s.cipheredIf cipher f b).olen = s.olen := by
  cases cipher <;> simp [cipheredIf, ciphered]
@[simp] theorem State.hash0_cipheredIf : (s.cipheredIf cipher f b).hash0 = s.hash0 := by
  cases cipher <;> simp [cipheredIf, ciphered]

theorem State.bytes_cipheredIf : ((s.cipheredIf cipher f b).buf b).bytes (s.len b) =
    cipherIf cipher (f s) ((s.buf b).bytes (s.len b)) := by
  cases cipher with
  | none => rfl
  | some _ =>
    refine List.ext_getElem (by simp [cipherIf]) fun i hi _ => ?_
    rw [Memory.length_bytes] at hi
    simp [cipheredIf, cipherIf, Memory.bytes, State.read_ciphered_of_lt hi]

end CipheredIf

/-! ### The key -/

/-- Two blocks in which the ciphers do the same: equal parameters, equal KLEN, and the same KEY bytes below it. -/
structure SameKey (s u : State) : Prop where
  cfg : u.cfg = s.cfg
  klen : u.klen = s.klen
  key : ∀ i, i < s.klen.toNat → u.key.read i = s.key.read i

theorem SameKey.cipherInverse {s u : State} (h : SameKey s u) : cipherInverse u = cipherInverse s := by
  funext i v
  unfold Machine.cipherInverse
  rw [h.klen, h.cfg]
  split_ifs with hkeyless
  · rfl
  · have hpos : s.klen.toNat ≠ 0 := fun h0 => hkeyless (BitVec.eq_of_toNat_eq h0)
    rw [xorKey, xorKey, h.klen, h.key _ (Nat.mod_lt _ (Nat.pos_of_ne_zero hpos))]

/-- The inverse cipher of a block undoes the forward cipher of another that has the same key (R146). -/
theorem SameKey.cipherInverse_cipherForward {s u : State} (h : SameKey s u) (i : Nat) (v : Byte) :
    Machine.cipherInverse u i (cipherForward s i v) = v := by
  rw [h.cipherInverse, Machine.cipherInverse_cipherForward]

/-- Loading a key leaves the same key whatever KEY held before (R87, R166). -/
theorem sameKey_keyed {s u : State} (hcfg : u.cfg = s.cfg) (hklen : s.klen = 0#16 ∧ u.klen = 0#16)
    (cipher : Option (List Byte)) : SameKey (s.keyed cipher) (u.keyed cipher) := by
  obtain ⟨hs, hu⟩ := hklen
  cases cipher with
  | none => exact ⟨hcfg, hu.trans hs.symm, fun i hi => absurd hi (by simp [State.keyed, hs])⟩
  | some k =>
    refine ⟨hcfg, rfl, fun i hi => ?_⟩
    have hi : i < k.length := hi.trans_le ((BitVec.toNat_ofNat _ _).trans_le (Nat.mod_le _ _))
    simp [State.keyed, Memory.read_writeBytes, hi]

/-- A key that fits KEY is no obstacle to a cipher command (R191). -/
theorem State.klen_keyed_le {cipher : Option (List Byte)} {s : State} (hklen : s.klen = 0#16)
    (hkey : ∀ k, cipher = some k → k.length ≤ s.cfg.keyBytes) : (s.keyed cipher).klen.toNat ≤ s.cfg.keyBytes := by
  cases cipher with
  | none => simp [State.keyed, hklen]
  | some k => exact ((BitVec.toNat_ofNat _ _).trans_le (Nat.mod_le _ _)).trans (hkey k rfl)

/-! ### The digests -/

/-- The state HASH leaves, if its digest is wanted (R140). -/
def State.hashedIf (wanted : Bool) (b : BufSel) (s : State) : State :=
  if wanted then (s.setHash (contentHash s.cfg ((s.buf b).bytes (s.len b))) b).retire else s

theorem runProgram_ifHashed {s : State} {b : BufSel} (he : s.err = 0#8) (hlen : s.len b ≤ s.cfg.bufBytes)
    (wanted : Bool) (p : List HostStep) :
    runProgram (ifHashed wanted (.hash b) ++ p) s = runProgram p (s.hashedIf wanted b) := by
  cases wanted with
  | false => rfl
  | true => exact runProgram_command (exec_hash he hlen) p

section HashedIf

variable (s : State) (wanted : Bool) (b : BufSel)

@[simp] theorem State.err_hashedIf : (s.hashedIf wanted b).err = s.err := by cases wanted <;> simp [hashedIf]
@[simp] theorem State.cfg_hashedIf : (s.hashedIf wanted b).cfg = s.cfg := by cases wanted <;> simp [hashedIf]
@[simp] theorem State.klen_hashedIf : (s.hashedIf wanted b).klen = s.klen := by cases wanted <;> simp [hashedIf]
@[simp] theorem State.key_hashedIf : (s.hashedIf wanted b).key = s.key := by cases wanted <;> simp [hashedIf]
@[simp] theorem State.ibuf_hashedIf : (s.hashedIf wanted b).ibuf = s.ibuf := by cases wanted <;> simp [hashedIf]
@[simp] theorem State.ilen_hashedIf : (s.hashedIf wanted b).ilen = s.ilen := by cases wanted <;> simp [hashedIf]

theorem cipherForward_hashedIf : cipherForward (s.hashedIf wanted b) = cipherForward s := by
  funext i v
  simp [cipherForward, xorKey]

end HashedIf

/-! ### Compress -/

/-- CGEN's table is in canonical form, with zeros past every Code (R167). -/
theorem clean_table_of_exec_cgen {s t : State} (he : s.err = 0#8) (h : s.TreeOk) (ht : exec .cgen s = .next t) :
    t.table.Clean := by
  obtain ⟨ls, hls, hrun⟩ := exec_cgen he h
  obtain ⟨hstop, -⟩ | ⟨-, g, hg, rfl⟩ := execCgen_cases ht
  · exact absurd he hstop
  · obtain ⟨⟨hclen, hcbits⟩, -⟩ := generateCodes_ok hg
    refine ⟨hclen, hcbits, fun c k _ hk hk' => ?_⟩
    have htable : g.table = (handedOut s ls).table := congrArg State.table (Host.Outcome.next.inj (ht.symm.trans hrun))
    change g.table.len c ≤ k at hk
    change g.table.bit c k = false
    rw [htable] at hk ⊢
    exact bit_handedOut_past h (hls.codesOk h) hk hk'

/-- Encoding leaves a table that can be written as text (R167). -/
theorem clean_table_of_runs_encode {s t : State} (he : s.err = 0#8) (hc : s.cfg.wellFormed = true)
    (hlen : s.ilen ≤ s.cfg.bufBytes) (h : runs [.fcnt, .tbld, .cgen, .pack] s t) : t.table.Clean := by
  obtain ⟨a, ha, b, hb, c, hcgen, d, hpack, rfl⟩ := h
  obtain rfl := Host.Outcome.next.inj ((exec_fcnt he hc hlen).symm.trans ha)
  obtain rfl := Host.Outcome.next.inj ((exec_tbld (s := s.counted) he).symm.trans hb)
  obtain ⟨-, -, -, -, -, htable, -⟩ := exec_framed hpack
  rw [(htable (by decide)).2]
  exact clean_table_of_exec_cgen (s := s.counted.built) he s.treeOk_counted_built hcgen

/-- The state in which Compress issues its first command after RST: buffer and key are loaded (R165). -/
def State.primed (s : State) (x : List Byte) (cipher : Option (List Byte)) : State :=
  (s.clearAll.withInput x).keyed cipher

theorem State.primed_fields (s : State) (x : List Byte) (cipher : Option (List Byte)) :
    (s.primed x cipher).err = 0#8 ∧ (s.primed x cipher).cfg = s.cfg ∧ (s.primed x cipher).ilen = x.length ∧
      (s.primed x cipher).ibuf.bytes x.length = x := by
  have hbytes : (s.clearAll.withInput x).ibuf.bytes x.length = x := Memory.bytes_writeBytes _ _
  cases cipher <;> exact ⟨rfl, rfl, rfl, hbytes⟩

/-- The bytes that Compress encodes: `x`, ciphered if the cipher is requested (R165). -/
def State.encodedBytes (s : State) (x : List Byte) (cipher : Option (List Byte)) : List Byte :=
  cipherIf cipher (cipherForward (s.primed x cipher)) x

/-- Up to its first encode command Compress loads, digests and ciphers the bytes (R165). -/
theorem exists_runProgram_compressProgram {s : State} {x : List Byte} {cipher : Option (List Byte)}
    (hc : s.cfg.wellFormed = true) (hlen : x.length ≤ s.cfg.bufBytes)
    (hkey : ∀ k, cipher = some k → k.length ≤ s.cfg.keyBytes) (h : Digests) :
    ∃ v : State, runProgram (compressProgram x cipher h) s =
        runProgram (Pseudo.encode.expand.map commandStep ++ ifHashed h.packed (.hash .output)) v ∧
      v.err = 0#8 ∧ v.cfg = s.cfg ∧ v.ilen = x.length ∧ v.ibuf.bytes v.ilen = s.encodedBytes x cipher ∧
      (h.plain = true → v.hash0 = contentHash s.cfg x) := by
  have hrst : exec .rst s = .next s.clearAll := rfl
  obtain ⟨he, hcfg, hilen, hbytes⟩ := s.primed_fields x cipher
  have hklen : (s.primed x cipher).klen.toNat ≤ s.cfg.keyBytes :=
    State.klen_keyed_le (s := s.clearAll.withInput x) rfl hkey
  have hrun : runProgram (compressProgram x cipher h) s =
      runProgram (ifHashed h.plain (.hash .input) ++ (ifCiphered cipher (.ciphf .input) ++
        (Pseudo.encode.expand.map commandStep ++ ifHashed h.packed (.hash .output)))) (s.primed x cipher) := by
    simp only [compressProgram, List.append_assoc, List.cons_append, List.nil_append]
    rw [runProgram_command hrst, runProgram_ibuf_append (s := s.clearAll) hc hlen]
    exact runProgram_keySteps (s := s.clearAll.withInput x) hkey _
  rw [hrun, State.encodedBytes]
  generalize s.primed x cipher = v at *
  have hin : v.ilen ≤ v.cfg.bufBytes := by rwa [hilen, hcfg]
  have hcipherable : Cipherable .input (v.hashedIf h.plain .input) :=
    ⟨by simpa using he, by simpa [State.len] using hin, by simpa [hcfg] using hklen⟩
  have hciphered := State.bytes_cipheredIf (cipher := cipher) (f := cipherForward) (b := .input)
    (s := v.hashedIf h.plain .input)
  simp only [State.buf, State.len, State.ibuf_hashedIf, State.ilen_hashedIf, cipherForward_hashedIf, hilen,
    hbytes] at hciphered
  refine ⟨(v.hashedIf h.plain .input).cipheredIf cipher cipherForward .input, ?_, by simpa using he,
    by simpa using hcfg, by simpa using hilen, by simpa [hilen] using hciphered, fun hplain => ?_⟩
  · rw [runProgram_ifHashed (b := .input) he hin, runProgram_ifCiphered hcipherable rfl]
  · rw [State.hash0_cipheredIf, State.hashedIf, if_pos hplain]
    change contentHash v.cfg (v.ibuf.bytes v.ilen) = _
    rw [hcfg, hilen, hbytes]

/-- Compress completes: its payload begins with the Codes of the encoded bytes, its text is that of their table, and its
digests are those of the plaintext and of the payload (R165). -/
theorem exists_compress_eq_ok {s : State} {x : List Byte} {cipher : Option (List Byte)}
    (hc : s.cfg.wellFormed = true) (hlen : x.length ≤ s.cfg.bufBytes)
    (hkey : ∀ k, cipher = some k → k.length ≤ s.cfg.keyBytes) (h : Digests) :
    ∃ t : State, Carries t t.obuf t.olen (s.encodedBytes x cipher) ∧ t.table.Clean ∧ t.cfg = s.cfg ∧
      compress s x cipher h = .ok
        { payload := t.obuf.bytes t.olen
          text := tableToText t.nsym t.table
          plainDigest := if h.plain then some (contentHash s.cfg x) else none
          packedDigest := if h.packed then some (contentHash s.cfg (t.obuf.bytes t.olen)) else none } := by
  obtain ⟨v, hrun, he, hcfg, hilen, hbytes, hplain⟩ := exists_runProgram_compressProgram hc hlen hkey h
  rw [← hcfg] at hc hlen
  rw [← hilen] at hlen
  obtain ⟨t, hencode, hcarries, -⟩ := exists_runs_encode he hc hlen
  rw [hbytes] at hcarries
  have hclean := clean_table_of_runs_encode he hc hlen hencode
  obtain ⟨htcfg, -, -, hhash⟩ := runs_framed hencode (by decide)
  refine ⟨t, hcarries, hclean, htcfg.trans hcfg, compress_eq_ok.2
    ⟨(t.hashedIf h.packed .output).withProgram [], ?_, by simpa using hcarries.err, ?_⟩⟩
  · have hhashed := runProgram_ifHashed (b := .output) hcarries.err hcarries.fits.2 h.packed []
    rw [List.append_nil, runProgram_nil] at hhashed
    exact hrun.trans ((runProgram_commands hencode _).trans hhashed)
  · have hdigest : (if h.plain then some t.hash0 else none) = if h.plain then some (contentHash s.cfg x) else none := by
      split_ifs with hwanted
      · rw [hhash, hplain hwanted]
      · rfl
    rw [← hdigest, ← hcfg, ← htcfg]
    obtain ⟨plain, packed⟩ := h
    cases packed <;> rfl

/-! ### Decompress -/

/-- The payload stands where the decoders read it, with the table and the count it was encoded with (R166). -/
theorem Carries.loaded {t u : State} {bs : List Byte} (h : Carries t t.obuf t.olen bs) (hcfg : u.cfg = t.cfg)
    (cipher : Option (List Byte)) :
    let v := u.loaded ⟨t.nsym, t.table⟩ (t.obuf.bytes t.olen) cipher
    Carries v v.ibuf v.ilen bs := by
  intro v
  obtain ⟨he, hvcfg, hnsym, hilen, htable⟩ := u.loaded_fields ⟨t.nsym, t.table⟩ (t.obuf.bytes t.olen) cipher
  have hvcfg : v.cfg = t.cfg := hvcfg.trans hcfg
  have hilen : v.ilen = t.olen := hilen.trans (Memory.length_bytes _ _)
  have hibuf : v.ibuf.bytes t.olen = t.obuf.bytes t.olen := by
    have hbytes := Memory.bytes_writeBytes u.ibuf (t.obuf.bytes t.olen)
    rw [Memory.length_bytes] at hbytes
    cases cipher <;> exact hbytes
  have hstream := streamBits_eq_of_bytes_eq hibuf
  have htable : v.table = t.table := htable
  have hnsym : v.nsym = t.nsym := hnsym
  exact {
    err := he
    config := hvcfg ▸ h.config
    free := htable ▸ h.free
    coded := htable ▸ h.coded
    count := hnsym.trans h.count
    fits := by rw [hilen, hvcfg]; exact h.fits
    stream := by rw [hilen, hstream, htable]; exact h.stream }

/-- The inverse cipher at the end of Decompress meets no fault and works on the output alone (R166). -/
theorem endOfRun_ifCiphered_ciphi {s : State} (h : Cipherable .output s) (cipher : Option (List Byte)) :
    (endOfRun (runProgram (ifCiphered cipher (.ciphi .output)) s)).map State.decompressed =
      .ok (cipherIf cipher (cipherInverse s) s.decompressed) := by
  have hrun := runProgram_ifCiphered (cipher := cipher) h (i := .ciphi .output) rfl []
  rw [List.append_nil, runProgram_nil] at hrun
  have hgood := endOfRun_eq_ok.2 ⟨hrun, State.err_cipheredIf.trans h.err⟩
  have hbytes := State.bytes_cipheredIf (cipher := cipher) (f := cipherInverse) (b := .output) (s := s)
  rw [hgood, Except.map, State.decompressed, State.obuf_withProgram, State.olen_withProgram, State.olen_cipheredIf]
  exact congrArg Except.ok hbytes

/-- Decompress on such a payload gives the encoded bytes back through the inverse cipher (R132, R166). -/
theorem decompress_of_carries {t u : State} {bs : List Byte} {cipher : Option (List Byte)}
    (h : Carries t t.obuf t.olen bs) (hclean : t.table.Clean) (hcfg : u.cfg = t.cfg)
    (hkey : ∀ k, cipher = some k → k.length ≤ u.cfg.keyBytes) (d : Strategy) :
    decompress u (tableToText t.nsym t.table) (t.obuf.bytes t.olen) cipher d =
      .ok (cipherIf cipher (cipherInverse (u.loaded ⟨t.nsym, t.table⟩ (t.obuf.bytes t.olen) cipher)) bs) := by
  have hc : u.cfg.wellFormed = true := hcfg ▸ h.config
  obtain ⟨hbs, holen⟩ := h.fits
  rw [← hcfg] at hbs holen
  have hn : t.nsym < 2 ^ u.cfg.lenW := h.count ▸ hbs.trans_lt (Config.bufBytes_lt hc)
  have hpayload : (t.obuf.bytes t.olen).length ≤ u.cfg.bufBytes := (Memory.length_bytes _ _).trans_le holen
  have hloaded := h.loaded hcfg cipher
  have hklen : (u.loaded ⟨t.nsym, t.table⟩ (t.obuf.bytes t.olen) cipher).klen.toNat ≤ u.cfg.keyBytes :=
    State.klen_keyed_le (s := (u.clearAll.withImage ⟨t.nsym, t.table⟩).withInput (t.obuf.bytes t.olen)) rfl hkey
  obtain ⟨-, hvcfg, -⟩ := u.loaded_fields ⟨t.nsym, t.table⟩ (t.obuf.bytes t.olen) cipher
  rw [decompress_text (textToTable_tableToText hn hclean),
    runProgram_decompressProgram hc hn hclean hpayload hkey]
  generalize u.loaded ⟨t.nsym, t.table⟩ (t.obuf.bytes t.olen) cipher = v at *
  obtain ⟨w, hdecode, herr, hwlen, hwbuf⟩ := hloaded.runs_decoder (d := d.commands) (by cases d <;> decide)
  obtain ⟨hwcfg, hwkey, hwklen, -⟩ := runs_framed hdecode (by cases d <;> decide)
  have hcipherable : Cipherable .output w :=
    ⟨herr, by rwa [State.len, hwlen, hwcfg, hvcfg], by rwa [hwklen, hwcfg, hvcfg]⟩
  have hinverse : cipherInverse w = cipherInverse v :=
    SameKey.cipherInverse ⟨hwcfg, hwklen, fun i _ => by rw [hwkey]⟩
  rw [runProgram_commands hdecode, endOfRun_ifCiphered_ciphi hcipherable, hinverse, State.decompressed, hwbuf, hwlen,
    Memory.bytes_writeBytes]

/-! ### The round trip -/

/-- Compress, then Decompress on another block with the same parameters (R165 to R167). -/
theorem exists_compress_decompress {s u : State} {x : List Byte} {cipher : Option (List Byte)}
    (hc : s.cfg.wellFormed = true) (hcfg : u.cfg = s.cfg) (hkey : ∀ k, cipher = some k → k.length ≤ s.cfg.keyBytes)
    (hlen : x.length ≤ s.cfg.bufBytes) (h : Digests) (d : Strategy) :
    ∃ c, compress s x cipher h = .ok c ∧ decompress u c.text c.payload cipher d = .ok x ∧
      c.plainDigest = (if h.plain then some (contentHash s.cfg x) else none) ∧
      c.packedDigest = (if h.packed then some (contentHash s.cfg c.payload) else none) := by
  obtain ⟨t, hcarries, hclean, htcfg, hcompress⟩ := exists_compress_eq_ok hc hlen hkey h
  have hsame : SameKey (s.primed x cipher) (u.loaded ⟨t.nsym, t.table⟩ (t.obuf.bytes t.olen) cipher) :=
    sameKey_keyed (s := s.clearAll.withInput x)
      (u := (u.clearAll.withImage ⟨t.nsym, t.table⟩).withInput (t.obuf.bytes t.olen)) hcfg ⟨rfl, rfl⟩ cipher
  refine ⟨_, hcompress, ?_, rfl, rfl⟩
  rw [decompress_of_carries hcarries hclean (hcfg.trans htcfg.symm) (hcfg ▸ hkey), State.encodedBytes,
    cipherIf_cipherIf hsame.cipherInverse_cipherForward]

/-- Settles O55: the tags are part of the bytes compressed, and the receiver checks them on the bytes it gets back. -/
theorem endToEndRoundTrip : Obligations.EndToEndRoundTrip := by
  unfold Obligations.EndToEndRoundTrip
  intro s u cipher h d hc hcfg hkey digest
  refine ⟨fun x hlen => exists_compress_decompress hc hcfg hkey hlen h d, fun fr t x ht hfr hlen => ?_⟩
  have htagged : prependTags fr t x = fr.header t ++ x := by simp [prependTags, ht]
  rw [← htagged] at hlen
  obtain ⟨c, hcompress, hdecompress, -⟩ := exists_compress_decompress hc hcfg hkey hlen h d
  refine ⟨c, hcompress, ?_, fun e he hne => ?_⟩
  · rw [receive_of_ok hdecompress, checkTags_prependTags fun _ => hfr]
    rfl
  · rw [receive_of_ok hdecompress, checkTags_mismatch hfr ht he hne]
    rfl

end Sys2Proof.Machine

/-! PROOFS. Faults and error-stop: which cause each command raises and the whole state its fault leaves (R190, R196,
R197), the failed walk of the decoders (R195), what error-stop drops and what it lets through (R198), and the idle block
(R204). -/

namespace Sys2Proof.Machine

open Sys2Proof.Claims

/-! ### The causes of each command's faults -/

/-- R190's table: the command `i` may raise this cause from the state `s`. HASH 1 does so only where OLEN is over the
capacity. -/
def MayRaise (i : Instr) (s : State) : Cause → Prop
  | .illegal => False
  | .len => i ∉ [.nop, .rst, .tbld, .cgen, .trie, .mapb] ∧ (i = .hash .output → s.cfg.bufBytes < s.olen)
  | .format => i ∈ [.dect, .decm]
  | .ovf => i ∈ [.pack, .dect, .decm]
  | .noCode => i = .pack
  | .walk => i ∈ [.dect, .decm]

section Raised

variable {s : State} {r : Raised}

theorem swapBuffers_raises (h : swapBuffers s = .error r) : r.cause = .len := by
  unfold swapBuffers at h
  split_ifs at h
  cases h
  rfl

/-- Of the two length checks either may fail (R191). -/
theorem cipherBuffer_raises {f : State → Nat → Byte → Byte} {b : BufSel} (h : cipherBuffer f b s = .error r) :
    r.cause = .len := by
  unfold cipherBuffer at h
  split_ifs at h <;> cases h <;> rfl

theorem hashBuffer_raises {b : BufSel} (h : hashBuffer b s = .error r) :
    r.cause = .len ∧ s.cfg.bufBytes < s.len b := by
  unfold hashBuffer at h
  split_ifs at h with hlen
  cases h
  exact ⟨rfl, hlen⟩

theorem countFrequencies_raises (h : countFrequencies s = .error r) : r.cause = .len := by
  unfold countFrequencies at h
  split_ifs at h
  cases h
  rfl

theorem packBuffer_mayRaise (h : packBuffer s = .error r) : MayRaise .pack s r.cause := by
  unfold packBuffer at h
  split_ifs at h
  · cases h
    exact ⟨by decide, nofun⟩
  · dsimp only at h
    split at h
    · cases h
      exact rfl
    · split_ifs at h
      cases h
      exact List.mem_cons_self

/-- The pre-checks' three causes and the failed walk (R123, R195). -/
theorem decodeWith_mayRaise {loop : State → BitString → Nat → Except Nat (List Symbol)} {i : Instr}
    (hi : i ∈ [.dect, .decm]) (h : decodeWith loop s = .error r) : MayRaise i s r.cause := by
  have hlen : MayRaise i s .len := by
    obtain rfl | rfl : i = .dect ∨ i = .decm := by simpa using hi
    all_goals exact ⟨by decide, nofun⟩
  unfold decodeWith at h
  split_ifs at h
  · cases h
    exact hlen
  · cases h
    exact hi
  · cases h
    exact List.mem_cons_of_mem _ hi
  · split at h
    · cases h
      exact hi
    · cases h

end Raised

/-! ### The state a fault leaves -/

/-- What a command that leaves ERR other than 0 has done: it took one fault, and where it streams into OBUF it lost its
output besides (R196, R197). -/
inductive FaultOutcome (i : Instr) (s : State) : State → Prop
  | plain (r : Raised) (hi : ¬ (i = .pack ∨ i = .dect ∨ i = .decm)) (hr : MayRaise i s r.cause) :
    FaultOutcome i s (s.raise r)
  | output (r : Raised) (hi : i = .pack ∨ i = .dect ∨ i = .decm) (hr : MayRaise i s r.cause) :
    FaultOutcome i s (s.loseOutput.raise r)

section Outcomes

variable {i : Instr} {s t : State} {body : State → Except Raised State}

/-- No effect writes ERR: faults and resets do (R23). -/
theorem Writes.err (h : Writes i s t) : t.err = s.err := by
  cases i with
  | nop => exact congrArg State.err h
  | rst => exact h.elim
  | swap => obtain ⟨_, _, _, _, rfl⟩ := h; rfl
  | ciphf b | ciphi b => obtain ⟨_, rfl⟩ := h; exact State.err_setBuf ..
  | hash b => obtain ⟨_, rfl⟩ := h; exact State.err_setHash ..
  | tbld => obtain ⟨_, _, _, rfl⟩ := h; rfl
  | fcnt | cgen | pack | trie | dect | mapb | decm => obtain ⟨_, _, rfl⟩ := h; rfl

theorem FaultOutcome.of_command (he : s.err = 0#8) (ht : t.err ≠ 0#8)
    (hi : ¬ (i = .pack ∨ i = .dect ∨ i = .decm)) (hok : ∀ u, body s = .ok u → Writes i s u)
    (herror : ∀ r, body s = .error r → MayRaise i s r.cause) (h : command body s = .next t) : FaultOutcome i s t := by
  obtain ⟨hstop, -⟩ | ⟨-, u, hu, rfl⟩ | ⟨-, r, hr, rfl⟩ := command_cases h
  · exact absurd he hstop
  · exact absurd ((hok u hu).err.trans he) ht
  · exact .plain r hi (herror r hr)

theorem FaultOutcome.of_outputCommand (he : s.err = 0#8) (ht : t.err ≠ 0#8)
    (hi : i = .pack ∨ i = .dect ∨ i = .decm) (hok : ∀ u, body s = .ok u → Writes i s u)
    (herror : ∀ r, body s = .error r → MayRaise i s r.cause) (h : outputCommand body s = .next t) :
    FaultOutcome i s t := by
  obtain ⟨hstop, -⟩ | ⟨-, u, hu, rfl⟩ | ⟨-, r, hr, rfl⟩ := outputCommand_cases h
  · exact absurd he hstop
  · exact absurd ((hok u hu).err.trans he) ht
  · exact .output r hi (herror r hr)

/-- Every command that leaves ERR other than 0 took one of the faults R190 lists for it. -/
theorem exec_faultOutcome (he : s.err = 0#8) (h : exec i s = .next t) (ht : t.err ≠ 0#8) : FaultOutcome i s t := by
  cases i with
  | nop => exact .of_command (body := .ok) he ht (by simp) (fun _ hu => (Except.ok.inj hu).symm) nofun h
  | rst =>
    cases h
    exact absurd s.err_clearAll ht
  | swap =>
    refine .of_command he ht (by simp) (fun _ => swapBuffers_writes) (fun r hr => ?_) h
    simp [swapBuffers_raises hr, MayRaise]
  | ciphf b | ciphi b =>
    refine .of_command he ht (by simp) (fun _ => cipherBuffer_writes) (fun r hr => ?_) h
    simp [cipherBuffer_raises hr, MayRaise]
  | hash b =>
    refine .of_command he ht (by simp) (fun _ => hashBuffer_writes) (fun r hr => ?_) h
    obtain ⟨hcause, hlen⟩ := hashBuffer_raises hr
    rw [hcause]
    refine ⟨by simp, fun hb => ?_⟩
    cases hb
    exact hlen
  | fcnt =>
    refine .of_command he ht (by simp) (fun _ => countFrequencies_writes) (fun r hr => ?_) h
    simp [countFrequencies_raises hr, MayRaise]
  | tbld => exact .of_command (body := buildTree) he ht (by simp) (fun _ => buildTree_writes) nofun h
  | cgen =>
    obtain ⟨hstop, -⟩ | ⟨-, g, -, rfl⟩ := execCgen_cases h
    · exact absurd he hstop
    · exact absurd he ht
  | pack =>
    exact .of_outputCommand he ht (by simp) (fun _ => packBuffer_writes) (fun _ => packBuffer_mayRaise) h
  | trie => exact .of_command (body := buildTrie) he ht (by simp) (fun _ => buildTrie_writes) nofun h
  | dect | decm =>
    exact .of_outputCommand he ht (by simp) (fun _ => decodeWith_writes)
      (fun _ => decodeWith_mayRaise (by simp)) h
  | mapb => exact .of_command (body := buildMap) he ht (by simp) (fun _ => buildMap_writes) nofun h

end Outcomes

/-- EINFO takes the info truncated, so cutting it to LEN_W bits again changes nothing (R24, R196). -/
theorem raise_eq_faulted (s : State) (r : Raised) : s.raise r = faulted s (s.raise r).err (s.raise r).einfo := by
  simp [faulted, State.raise, trunc]

theorem loseOutput_raise_eq_outputFaulted (s : State) (r : Raised) :
    s.loseOutput.raise r = outputFaulted s (s.loseOutput.raise r).err (s.loseOutput.raise r).einfo := by
  simp [outputFaulted, State.raise, State.loseOutput, trunc]

/-- Settles O14: the two kinds of fault are the two branches. -/
theorem faultsArePrecise : Obligations.FaultsArePrecise := by
  unfold Obligations.FaultsArePrecise
  intro i s t he h ht
  cases exec_faultOutcome he h ht with
  | plain r hi _ =>
    rw [if_neg hi]
    exact ⟨raise_eq_faulted s r, trunc_lt _ _⟩
  | output r hi _ =>
    rw [if_pos hi]
    exact ⟨loseOutput_raise_eq_outputFaulted s r, trunc_lt _ _⟩

/-- A fault leaves in ERR the code of a cause that R190 lists for the command. -/
theorem exec_err_eq_code {i : Instr} {s t : State} (he : s.err = 0#8) (h : exec i s = .next t) (ht : t.err ≠ 0#8) :
    ∃ c : Cause, t.err = c.code ∧ MayRaise i s c := by
  cases exec_faultOutcome he h ht with
  | plain r _ hr | output r _ hr => exact ⟨r.cause, rfl, hr⟩

/-- Settles O15: the disjuncts are the causes that a command may raise, by their codes. -/
theorem faultCodesByCommand : Obligations.FaultCodesByCommand := by
  unfold Obligations.FaultCodesByCommand
  intro i s t he h
  by_cases ht : t.err = 0#8
  · exact .inl ht
  · obtain ⟨c, hcode, hmay⟩ := exec_err_eq_code he h ht
    right
    cases c with
    | illegal => exact hmay.elim
    | len =>
      obtain ⟨hi, hhash⟩ := hmay
      exact .inl ⟨hcode, hi, hhash⟩
    | format => exact .inr (.inl ⟨hcode, hmay⟩)
    | ovf => exact .inr (.inr (.inl ⟨hcode, hmay⟩))
    | noCode => exact .inr (.inr (.inr (.inl ⟨hcode, hmay⟩)))
    | walk => exact .inr (.inr (.inr (.inr ⟨hcode, hmay⟩)))

/-! ### The failed walk -/

/-- After the words of the stream no Code begins the rest, so the loop ends with the words counted (R195). -/
theorem decodeFind_words_noWord {find : BitString → Option Symbol} {cs : List BitString} {out : List Symbol}
    {rest : BitString} {need : Nat} (hcs : List.Forall₂ (isWord find) cs out) (hrest : noWord find rest)
    (hneed : out.length < need) : decodeFind find (cs.flatten ++ rest) [] need 0 = .error out.length := by
  obtain ⟨more, rfl⟩ := Nat.exists_eq_add_of_lt hneed
  rw [Nat.add_assoc, decodeFind_words hcs, decodeFind_hopeless (cand := []) hrest more.succ_ne_zero, Nat.zero_add]
  rfl

theorem decodeWith_words_noWord {loop : State → BitString → Nat → Except Nat (List Symbol)}
    {find : BitString → Option Symbol} {s : State} {cs : List BitString} {out : List Symbol} {rest : BitString}
    (hloop : ∀ bits need, loop s bits need = decodeFind find bits [] need 0) (h : decodable s)
    (hneed : out.length < s.nsym) (hbits : streamBits s.ibuf s.ilen = cs.flatten ++ rest)
    (hcs : List.Forall₂ (isWord find) cs out) (hrest : noWord find rest) :
    outputCommand (decodeWith loop) s = .next (outputFaulted s 6#8 out.length) :=
  decodeWith_walkFails h (by rw [hloop, hbits, decodeFind_words_noWord hcs hrest hneed])

/-- Settles O48: both loops look Codes up, DECT's in the trie and DECM's in the map. -/
theorem decodeWalkFails : Obligations.DecodeWalkFails := by
  unfold Obligations.DecodeWalkFails
  intro s cs out rest h hneed hbits
  exact ⟨decodeWith_words_noWord (trieLoop_eq s) h hneed hbits,
    decodeWith_words_noWord (mapLoop_eq s) h hneed hbits⟩

/-! ### Error-stop and the idle block -/

/-- In error-stop every command but RST answers the state it was given, CGEN on any arena included (R198). -/
theorem exec_dropped {i : Instr} {s : State} (he : s.err ≠ 0#8) (hi : i ≠ .rst) : exec i s = .next s := by
  by_cases hcgen : i = .cgen
  · subst hcgen
    rw [exec, execCgen, unlessStopped_stopped he]
  · obtain ⟨t, ht⟩ := exec_total hcgen s
    rw [ht, exec_stopped he hi ht]

theorem hostCmd_dropped {w : CmdWord} {s : State} (he : s.err ≠ 0#8) (hw : w ≠ 0x0100#16) :
    hostCmd w s = .next s := by
  unfold hostCmd
  split
  · next i hi => exact exec_dropped he fun hr => hw (eq_of_decode_rst (hr ▸ hi))
  · exact illegalWord_stopped he

/-- Settles O7: error-stop stands before commands and illegal words only, not before host writes and reads. -/
theorem errorStopDropsCommands : Obligations.ErrorStopDropsCommands := by
  unfold Obligations.ErrorStopDropsCommands
  intro s rest he
  refine ⟨fun w hw hp => ?_, fun sp i v hp => step_host hp, fun sp i hp => step_host hp⟩
  rw [step_host hp]
  exact hostCmd_dropped (s := { s with pending := rest }) he hw

/-- Settles O9: a step with nothing pending is the model's idle case. -/
theorem idleBlockKeepsItsState : Obligations.IdleBlockKeepsItsState := by
  unfold Obligations.IdleBlockKeepsItsState
  exact fun _ => step_idle

end Sys2Proof.Machine

/-! Hardware reset (R220): one host step that gives every register and table its reset value (R49), and every byte memory
a draw of its own. -/

namespace Sys2Proof.Machine

/-- What hardware reset gives every field: only the parameters and the host's part stay (R49, R220). -/
theorem State.hardwareReset_eq (s : State) : s.hardwareReset = { s with
    err := 0#8, einfo := 0, ccnt := 0#32, ilen := 0, olen := 0, nsym := 0, klen := 0#16, wpl := 0,
    root := 0x1FF#9, nleaf := 0#9, tcnt := 0#16, mcnt := 0#9, hash0 := 0#64, hash1 := 0#64, freq := [],
    table := ⟨[], []⟩, node := [], trie := [], map := [],
    ibuf := ⟨s.draws, []⟩, obuf := ⟨s.draws + 1, []⟩, key := ⟨s.draws + 2, []⟩, draws := s.draws + 3 } :=
  rfl

/-- A pending hardware reset runs in every state, error-stop included (R220). -/
theorem step_hardwareReset {s : State} {rest : List HostStep} (hp : s.pending = .hardwareReset :: rest) :
    step s = .next (State.hardwareReset { s with pending := rest }) :=
  step_host hp

/-- Settles O21: the step is the reset of the state that has lost the pending input. -/
theorem hardwareResetState : Obligations.HardwareResetState := by
  unfold Obligations.HardwareResetState
  intro s rest hp
  rw [step_hardwareReset hp, State.hardwareReset_eq]

end Sys2Proof.Machine
